-- ==== Sys2Proof/Word.lean ====
section
/-! DEFINITION. The word types of VSYNTH-CORE: the command word, the byte of a transport and the
binary64 number. Every operation on them stands in Machine/. -/

namespace Sys2Proof

/-- One byte of a byte transport (rule R65). -/
abbrev Byte := BitVec 8

/-- One 32-bit word of the command stream (rule R60). -/
abbrev Word := BitVec 32

/-- One 64-bit register image, as READ answers it (rules R61, R63). -/
abbrev Image := BitVec 64

/-- An IEEE 754 binary64 value, the spec's `Num` (rule R8), held as its bit pattern: bit 63 the
sign, bits 62:52 the exponent, bits 51:0 the fraction (rule R63). A structure and no synonym of
`BitVec 64`, so that integer arithmetic on bit patterns is never taken for arithmetic on numbers. -/
structure F64 where
  bits : BitVec 64
deriving DecidableEq, Repr, Inhabited

end Sys2Proof
end

