-- ==== Sys2Proof/Config.lean ====
section
/-! DEFINITION. What an implementation of VSYNTH-CORE fixes (rule R5) and the free values: the
parameter record that State carries (log entry 1), the parameters with one value, and the opaque constants
nothing can evaluate (log entries 2 to 5). The reference values stand in Machine/Reference.lean. -/

namespace Sys2Proof

/-- The square wave's value where the sine value is zero: the three values rule R5 gives SQ_TIE. -/
inductive SqTie where
  | minusOne
  | zero
  | plusOne
deriving DecidableEq, Repr, Inhabited

/-- The parameters of rule R5 that are not fixed by the spec, as plain data. They are arguments of
the model, carried in State; no step changes them (log entry 1). -/
structure Params where
  /-- FS, the sample rate in frames per second; read as CFG.FS (R49). -/
  fs : F64
  /-- NCH, the channels of a frame, 1..4; read as CFG.NCH (R49). -/
  nch : Nat
  /-- MAX_NOTES, the capacity of the held-notes set, 1..16; read as CFG.MAX_NOTES (R49). -/
  maxNotes : Nat
  /-- SCALE, the 108 note frequencies in Hz (R129). -/
  scale : List F64
  /-- SQ_TIE (R102). -/
  sqTie : SqTie
  /-- CUT_OCT, octaves of cutoff change per unit of cutoff modulation (R235). -/
  cutOct : F64
deriving DecidableEq, Repr

/-- The functions the spec leaves open, as one argument of the datapath: the transcendental
functions of rule R10 and the noise draw stream of rule R12 (its element number `k`). Not part of
State: `Machine.openFns` is the one record the machine runs with. -/
structure Fns where
  fsin : F64 → F64
  fcos : F64 → F64
  ftan : F64 → F64
  fasin : F64 → F64
  fatan : F64 → F64
  fexp2 : F64 → F64
  draw : Nat → F64

/-- The operations whose invalid results are NaN of a bit pattern the spec does not give. -/
inductive NumOp where
  | add
  | sub
  | mul
  | div
  | fmod
deriving DecidableEq, Repr

namespace Config

/-- FREE VALUE (log entry 3): FSIN before the limits of rule R10 are put on it. -/
opaque freeSin : F64 → F64

/-- FREE VALUE (log entry 3): FCOS before the limits of rule R10. -/
opaque freeCos : F64 → F64

/-- FREE VALUE (log entry 3): FTAN before the limits of rule R10. -/
opaque freeTan : F64 → F64

/-- FREE VALUE (log entry 3): FASIN before the limits of rule R10. -/
opaque freeAsin : F64 → F64

/-- FREE VALUE (log entry 3): FATAN before the limits of rule R10. -/
opaque freeAtan : F64 → F64

/-- FREE VALUE (log entry 3): FEXP2 before the limits of rule R10. -/
opaque freeExp2 : F64 → F64

/-- FREE VALUE (log entry 4): the element of the noise draw stream with this number, before the
limit to [-1.0, 1.0] of rule R12. -/
opaque freeDraw : Nat → F64

/-- FREE VALUE (log entry 5): the sign and payload of the NaN an operation on these two operands
makes; rule R8 says only that the result is NaN. -/
opaque freeNaN : NumOp → F64 → F64 → F64

/-- FREE VALUE (log entry 2): CUT_OCT, before its limit to finite values. Rule R5 leaves it OPEN and
gives no reference value. -/
opaque freeCutOct : F64

/-- FC_MIN, the lower clamp of the effective cutoff: 30.0 Hz (rule R5). -/
def fcMin : F64 := ⟨0x403E000000000000#64⟩

/-- FC_MAX, the upper clamp of the effective cutoff: 22000.0 Hz (rule R5). -/
def fcMax : F64 := ⟨0x40D57C0000000000#64⟩

/-- Q_MIN, the lower clamp of the resonance register: 0.5 (rule R5). -/
def qMin : F64 := ⟨0x3FE0000000000000#64⟩

/-- Q_MAX, the upper clamp of the resonance register: 20.0 (rule R5). -/
def qMax : F64 := ⟨0x4034000000000000#64⟩

end Config

end Sys2Proof
end

