-- ==== Sys2Proof/Machine/Reference.lean ====
section
/-! DEFINITION. The reference values of the parameters of rule R5, with the reference SCALE of rule R129:
the parameter record State.reset carries (log entries 1, 2 and 9). -/

namespace Sys2Proof.Config

/-- The bit patterns of the reference SCALE of rule R129, one octave a row: entry `k` is the binary64
nearest to `440 * 2^((k - 57)/12)` (log entry 9 on the entry 107). -/
def scaleBits : List Nat :=
  [0x40305A0250C2B956, 0x403152EC0E758E6F, 0x40325AA2E3AF0B21, 0x4033720820155764,
   0x40349A0A791E127B, 0x4035D3A6D600CABC, 0x40371FE927CA0DE9, 0x40387FED4E47ADFF,
   0x4039F4E00A91D08E, 0x403B800000000000, 0x403D229EC465C8A2, 0x403EDE22007F791A] ++
  [0x40405A0250C2B956, 0x404152EC0E758E6F, 0x40425AA2E3AF0B21, 0x4043720820155764,
   0x40449A0A791E127B, 0x4045D3A6D600CABC, 0x40471FE927CA0DE9, 0x40487FED4E47ADFF,
   0x4049F4E00A91D08E, 0x404B800000000000, 0x404D229EC465C8A2, 0x404EDE22007F791A] ++
  [0x40505A0250C2B956, 0x405152EC0E758E6F, 0x40525AA2E3AF0B21, 0x4053720820155764,
   0x40549A0A791E127B, 0x4055D3A6D600CABC, 0x40571FE927CA0DE9, 0x40587FED4E47ADFF,
   0x4059F4E00A91D08E, 0x405B800000000000, 0x405D229EC465C8A2, 0x405EDE22007F791A] ++
  [0x40605A0250C2B956, 0x406152EC0E758E6F, 0x40625AA2E3AF0B21, 0x4063720820155764,
   0x40649A0A791E127B, 0x4065D3A6D600CABC, 0x40671FE927CA0DE9, 0x40687FED4E47ADFF,
   0x4069F4E00A91D08E, 0x406B800000000000, 0x406D229EC465C8A2, 0x406EDE22007F791A] ++
  [0x40705A0250C2B956, 0x407152EC0E758E6F, 0x40725AA2E3AF0B21, 0x4073720820155764,
   0x40749A0A791E127B, 0x4075D3A6D600CABC, 0x40771FE927CA0DE9, 0x40787FED4E47ADFF,
   0x4079F4E00A91D08E, 0x407B800000000000, 0x407D229EC465C8A2, 0x407EDE22007F791A] ++
  [0x40805A0250C2B956, 0x408152EC0E758E6F, 0x40825AA2E3AF0B21, 0x4083720820155764,
   0x40849A0A791E127B, 0x4085D3A6D600CABC, 0x40871FE927CA0DE9, 0x40887FED4E47ADFF,
   0x4089F4E00A91D08E, 0x408B800000000000, 0x408D229EC465C8A2, 0x408EDE22007F791A] ++
  [0x40905A0250C2B956, 0x409152EC0E758E6F, 0x40925AA2E3AF0B21, 0x4093720820155764,
   0x40949A0A791E127B, 0x4095D3A6D600CABC, 0x40971FE927CA0DE9, 0x40987FED4E47ADFF,
   0x4099F4E00A91D08E, 0x409B800000000000, 0x409D229EC465C8A2, 0x409EDE22007F791A] ++
  [0x40A05A0250C2B956, 0x40A152EC0E758E6F, 0x40A25AA2E3AF0B21, 0x40A3720820155764,
   0x40A49A0A791E127B, 0x40A5D3A6D600CABC, 0x40A71FE927CA0DE9, 0x40A87FED4E47ADFF,
   0x40A9F4E00A91D08E, 0x40AB800000000000, 0x40AD229EC465C8A2, 0x40AEDE22007F791A] ++
  [0x40B05A0250C2B956, 0x40B152EC0E758E6F, 0x40B25AA2E3AF0B21, 0x40B3720820155764,
   0x40B49A0A791E127B, 0x40B5D3A6D600CABC, 0x40B71FE927CA0DE9, 0x40B87FED4E47ADFF,
   0x40B9F4E00A91D08E, 0x40BB800000000000, 0x40BD229EC465C8A2, 0x40BEDE22007F791A]
/-- The reference SCALE of rule R129. -/
def scaleRef : List F64 := scaleBits.map fun b => ⟨BitVec.ofNat 64 b⟩

/-- CUT_OCT as the reset state carries it: free, but finite (rule R5, log entry 2). A non-finite free
value is brought to a finite one by clearing the lowest exponent bit. -/
def cutOct : F64 :=
  if freeCutOct.bits.extractLsb' 52 11 = 0x7FF#11 then
    ⟨freeCutOct.bits &&& 0xFFEFFFFFFFFFFFFF#64⟩
  else freeCutOct

/-- The reference parameters of rule R5: FS 44100.0, NCH 2, MAX_NOTES 16, the reference SCALE, SQ_TIE
-1.0; CUT_OCT has no reference value and is free (log entries 1 and 2). -/
def reference : Params where
  fs := ⟨0x40E5888000000000#64⟩
  nch := 2
  maxNotes := 16
  scale := scaleRef
  sqTie := .minusOne
  cutOct := cutOct

end Sys2Proof.Config
end

