-- ==== Sys2Proof/Machine/State.lean ====
section
/-! DEFINITION. The state of VSYNTH-CORE as plain data (rules R20 to R49), the reasons a step can stop,
and the state after reset (rule R300). -/

namespace Sys2Proof.Machine

/-- OSC[i].WAVE (rule R21): the five kinds it can hold. -/
inductive Wave where
  | sine
  | square
  | saw
  | triangle
  | noise
deriving DecidableEq, Repr

/-- FLT.MODE (rule R35): 0, 1 and 2. -/
inductive FltMode where
  | svfLp
  | bqLp
  | bqHp
deriving DecidableEq, Repr

/-- FLT.POLES (rule R35): 2 or 4. -/
inductive Poles where
  | two
  | four
deriving DecidableEq, Repr

/-- The registers of one oscillator (rules R21 to R30). -/
structure Osc where
  wave : Wave
  volume : F64
  amp : F64
  freq : F64
  fine : F64
  /-- In -4..4 (rule R26). -/
  octave : Int
  drone : Bool
  lfo : Bool
  fm : F64
  gain : Vector F64 4
deriving DecidableEq, Repr

/-- The envelope parameters and tracker (rules R31, R32). -/
structure Env where
  attack : F64
  decay : F64
  sustain : F64
  release : F64
  active : Bool
  released : Bool
  nOn : BitVec 64
  nOff : BitVec 64
  aOff : F64
deriving DecidableEq, Repr

/-- The main-filter configuration (rule R35). -/
structure Flt where
  cutoff : F64
  res : F64
  poles : Poles
  mode : FltMode
deriving DecidableEq, Repr

/-- The shaper configuration (rule R36). -/
structure Shp where
  clipEn : Bool
  clipPos : F64
  clipNeg : F64
  /-- In 0..24, 0 for off. -/
  crush : Fin 25
deriving DecidableEq, Repr

/-- The two persisted cells of one filter instance (rule R38): S1 and S2 of a biquad, IC1 and IC2 of a
state-variable filter. -/
structure Cells where
  s1 : F64
  s2 : F64
deriving DecidableEq, Repr

/-- The state of one channel (rules R38 to R40). -/
structure Chan where
  /-- BQ_S1, BQ_S2. -/
  bq : Cells
  /-- SVF0_IC1, SVF0_IC2. -/
  svf0 : Cells
  /-- SVF1_IC1, SVF1_IC2. -/
  svf1 : Cells
  /-- HP_S1, HP_S2. -/
  hp : Cells
  fprev : F64
  outNum : F64
  outPcm : BitVec 16
deriving DecidableEq, Repr

/-- One channel's entry of an output frame (rule R262). -/
structure Sample where
  pcm : BitVec 16
  num : F64
deriving DecidableEq, Repr

/-- One event the host sends: a word of the command stream, or a hardware reset, which comes from
outside the stream (rules R12, R301). -/
inductive HostInput where
  | word (w : Word)
  | reset
deriving DecidableEq, Repr

/-- The error conditions of rule R282, in the order of their STATUS bits. None of them stops the block. -/
inductive Err where
  | illegalOp
  | badField
  | nonfinite
  | noteFull
  | badAddr
deriving DecidableEq, Repr

/-- The whole state. The fields up to `status` are the architectural state of rule R20; `cfg` are the
parameters of rule R5, CFG.FS, CFG.NCH and CFG.MAX_NOTES of rule R49 among them (log entry 1); the last
four are the block's environment, the model's own (log entries 4, 6 and 8). -/
structure State where
  osc : Vector Osc 3
  env : Env
  /-- HELD in insertion order; HELD_COUNT is its length (rule R33). -/
  held : List (BitVec 7)
  /-- ROUTE[s]: bit `r` is the cell M(s, r) (rule R34). -/
  route : Vector (BitVec 9) 5
  flt : Flt
  shp : Shp
  master : F64
  /-- CH[c]; those with `c >= NCH` are no registers of the block and stay as they are (log entry 11). -/
  chan : Vector Chan 4
  T : F64
  N : BitVec 64
  status : BitVec 5
  cfg : Params
  /-- What the host has sent and the block has not consumed, the next event first. -/
  input : List HostInput
  /-- How many elements of the noise draw stream were consumed. -/
  draws : Nat
  /-- The output stream, the oldest frame first. -/
  frames : List (List Sample)
  /-- The READ responses, the oldest first. -/
  responses : List Image
deriving DecidableEq, Repr

/-- Why a step stops with a fault. There is no constructor: no condition of this hardware halts the
block (rule R281), so nothing raises a fault (safe). -/
inductive Fault where
deriving DecidableEq, Repr

/-- Why the model refuses an instruction. -/
inductive Refusal where
  /-- Raised by exec's arm of an instruction without a meaning, by its mnemonic; no arm raises it
  (safe). -/
  | notModelled (mnemonic : String)
deriving DecidableEq, Repr

/-! ### Reset values (rules R21 to R44, summary in 10_state.md section 11) -/

namespace Reset

def num0 : F64 := ⟨0#64⟩
def num1 : F64 := ⟨0x3FF0000000000000#64⟩
/-- 440.0 -/
def freq : F64 := ⟨0x407B800000000000#64⟩
/-- 1000.0 -/
def cutoff : F64 := ⟨0x408F400000000000#64⟩
/-- HPF_Q of rule R9, 0.7071067811865476 -/
def res : F64 := ⟨0x3FE6A09E667F3BCD#64⟩

def osc : Osc where
  wave := .sine
  volume := num1
  amp := num1
  freq := freq
  fine := num0
  octave := 0
  drone := false
  lfo := false
  fm := num0
  gain := #v[num1, num1, num1, num1]

def env : Env where
  attack := num0
  decay := num0
  sustain := num1
  release := num0
  active := false
  released := false
  nOn := 0#64
  nOff := 0#64
  aOff := num0

def flt : Flt where
  cutoff := cutoff
  res := res
  poles := .two
  mode := .svfLp

def shp : Shp where
  clipEn := false
  clipPos := num1
  clipNeg := num1
  crush := 0

def cells : Cells := ⟨num0, num0⟩

def chan : Chan where
  bq := cells
  svf0 := cells
  svf1 := cells
  hp := cells
  fprev := num0
  outNum := num0
  outPcm := 0#16

end Reset

/-- The state right after reset of a block with these parameters (rule R300), its environment empty. -/
def State.resetWith (p : Params) : State where
  osc := #v[Reset.osc, Reset.osc, Reset.osc]
  env := Reset.env
  held := []
  route := #v[0#9, 0#9, 0#9, 0#9, 0#9]
  flt := Reset.flt
  shp := Reset.shp
  master := Reset.num1
  chan := #v[Reset.chan, Reset.chan, Reset.chan, Reset.chan]
  T := Reset.num0
  N := 0#64
  status := 0#5
  cfg := p
  input := []
  draws := 0
  frames := []
  responses := []

/-- The machine right after reset, with the reference parameters of rule R5 (log entry 1). -/
def State.reset : State := State.resetWith Config.reference

end Sys2Proof.Machine
end

