-- ==== Sys2Proof/Machine/Flags.lean ====
section
/-! DEFINITION. The STATUS register (rules R44, R282): the bit of each error, setting one, clearing by a
mask. There are no condition codes. -/

namespace Sys2Proof.Machine

/-- The code of an error: its STATUS bit as a mask (rule R282). -/
def errMask : Err → BitVec 5
  | .illegalOp => 0x01#5
  | .badField => 0x02#5
  | .nonfinite => 0x04#5
  | .noteFull => 0x08#5
  | .badAddr => 0x10#5

/-- A sticky bit is set and every other bit kept (rule R282). -/
def setFlag (e : Err) (status : BitVec 5) : BitVec 5 := status ||| errMask e

/-- STATUS_CLR clears the bits of the mask and no other (rule R266). -/
def clearFlags (mask status : BitVec 5) : BitVec 5 := status &&& ~~~mask

end Sys2Proof.Machine
end

