-- ==== Sys2Proof/Machine/Binary64.lean ====
section
/-! DEFINITION. IEEE 754 binary64 arithmetic (rules R8, R9, R11), exact on integers and rounded once.
Every finite binary64 is a whole number of units of 2^-1074; an operation computes its exact result
as a ratio of such numbers, and `roundRatio` alone rounds. -/

namespace Sys2Proof.F64

/-! ### Fields and classes -/

/-- The value with this bit pattern. -/
def ofBits (n : Nat) : F64 := ⟨BitVec.ofNat 64 n⟩

/-- The sign bit, bit 63. -/
def isNeg (x : F64) : Bool := x.bits.msb

/-- The exponent field, bits 62:52. -/
def expo (x : F64) : Nat := (x.bits.extractLsb' 52 11).toNat

/-- The fraction field, bits 51:0. -/
def frac (x : F64) : Nat := (x.bits.extractLsb' 0 52).toNat

/-- `is_finite` of rule R11. -/
def isFinite (x : F64) : Bool := expo x != 2047

def isNaN (x : F64) : Bool := expo x == 2047 && frac x != 0

def isInf (x : F64) : Bool := expo x == 2047 && frac x == 0

/-! ### Exact values -/

/-- 1.0 in units of 2^-1074. -/
def oneUnits : Nat := 2 ^ 1074

/-- The magnitude of a finite value in units of 2^-1074 (and, for an infinity, a number above every
finite magnitude, which the comparisons use). -/
def mag (x : F64) : Nat :=
  if expo x = 0 then frac x else (2 ^ 52 + frac x) * 2 ^ (expo x - 1)

/-- The exact value of a finite value in units of 2^-1074. -/
def units (x : F64) : Int := if isNeg x then -(mag x : Int) else (mag x : Int)

/-- The value is +0.0 or -0.0. -/
def isZero (x : F64) : Bool := mag x == 0

/-! ### Rounding -/

/-- The value with this sign and these 63 lower bits. -/
def withSign (neg : Bool) (m : Nat) : F64 := ofBits (if neg then 2 ^ 63 + m else m)

def zeroOf (neg : Bool) : F64 := withSign neg 0

/-- The lower 63 bits of an infinity. -/
def infBits : Nat := 2047 * 2 ^ 52

def infOf (neg : Bool) : F64 := withSign neg infBits

/-- `num / den` rounded to the nearest integer, ties to even. -/
def divEven (num den : Nat) : Nat :=
  if den < 2 * (num % den) ∨ (2 * (num % den) = den ∧ num / den % 2 = 1) then num / den + 1
  else num / den

/-- The binary exponent of the spacing, in units of 2^-1074, of the binary64 values around
`num / den` units. -/
def spacing (num den : Nat) : Nat := Nat.log2 (num / den) - 52

/-- The binary64 nearest to `num / den` units of 2^-1074, ties to even, an infinity beyond the largest
finite value (rule R8). In the bit pattern the exponent and the fraction count on into each other, so
a carry out of the fraction and the step from subnormal to normal values need no case of their own. -/
def roundRatio (neg : Bool) (num den : Nat) : F64 :=
  let k := spacing num den
  withSign neg (min infBits (k * 2 ^ 52 + divEven num (den * 2 ^ k)))

/-! ### NaN results -/

/-- A NaN: `x` itself where it is one, else the NaN with its sign and the lowest fraction bit set. -/
def asNaN (x : F64) : F64 := if isNaN x then x else ⟨x.bits ||| 0x7FF0000000000001#64⟩

/-- The NaN that an operation makes of two operands: its bit pattern is a free value (log entry 5). -/
def nanOf (op : NumOp) (a b : F64) : F64 := asNaN (Config.freeNaN op a b)

/-! ### The operations of rule R8 -/

/-- Unary minus flips the sign bit, of a NaN too (rule R8). -/
def neg (x : F64) : F64 := ⟨x.bits ^^^ 0x8000000000000000#64⟩

/-- The magnitude: the sign bit cleared. -/
def abs (x : F64) : F64 := ⟨x.bits &&& 0x7FFFFFFFFFFFFFFF#64⟩

/-- The sum, `nan` where IEEE 754 gives NaN. An exact zero sum is +0.0 but for two negative zeros
(round to nearest, log entry 10). -/
def sum (nan a b : F64) : F64 :=
  if isNaN a || isNaN b then nan
  else if isInf a then (if isInf b && isNeg a != isNeg b then nan else a)
  else if isInf b then b
  else if units a + units b = 0 then zeroOf (isNeg a && isNeg b)
  else roundRatio (decide (units a + units b < 0)) (units a + units b).natAbs 1

def add (a b : F64) : F64 := sum (nanOf .add a b) a b

def sub (a b : F64) : F64 := sum (nanOf .sub a b) a (neg b)

def mul (a b : F64) : F64 :=
  if isNaN a || isNaN b then nanOf .mul a b
  else if isInf a then (if isZero b then nanOf .mul a b else infOf (isNeg a != isNeg b))
  else if isInf b then (if isZero a then nanOf .mul a b else infOf (isNeg a != isNeg b))
  else roundRatio (isNeg a != isNeg b) (mag a * mag b) oneUnits

def div (a b : F64) : F64 :=
  if isNaN a || isNaN b then nanOf .div a b
  else if isInf a then (if isInf b then nanOf .div a b else infOf (isNeg a != isNeg b))
  else if isInf b then zeroOf (isNeg a != isNeg b)
  else if isZero b then (if isZero a then nanOf .div a b else infOf (isNeg a != isNeg b))
  else roundRatio (isNeg a != isNeg b) (mag a * oneUnits) (mag b)

/-- The nearest binary64 of an integer (rule R8). -/
def ofNat (n : Nat) : F64 := roundRatio false (n * oneUnits) 1

/-! ### Comparisons (rule R7: false where an operand is NaN, -0.0 equals +0.0) -/

def eq (a b : F64) : Bool := !isNaN a && !isNaN b && units a == units b

def lt (a b : F64) : Bool := !isNaN a && !isNaN b && decide (units a < units b)

def le (a b : F64) : Bool := !isNaN a && !isNaN b && decide (units a ≤ units b)

/-! ### The helper functions of rule R11 -/

/-- `clamp(x, lo, hi)`: a NaN gives `lo`. -/
def clamp (x lo hi : F64) : F64 := if !le lo x then lo else if lt hi x then hi else x

/-- `fmod`: the exact remainder of the truncated quotient, with the sign of `x`. -/
def fmod (x y : F64) : F64 :=
  if isNaN x || isNaN y || isInf x || isZero y then nanOf .fmod x y
  else if isInf y then x
  else roundRatio (isNeg x) (mag x % mag y) 1

/-- `trunc` of a finite value: the integer toward zero. -/
def trunc (x : F64) : Int := (units x).tdiv oneUnits

/-- `round_away`: to the nearest integer, ties away from zero; the sign stays, so a result of zero
keeps the operand's sign (IEEE 754 roundToIntegralTiesToAway); a non-finite value is unchanged. -/
def roundAway (x : F64) : F64 :=
  if isFinite x then roundRatio (isNeg x) ((2 * mag x + oneUnits) / (2 * oneUnits) * oneUnits) 1
  else x

/-! ### Constants (rule R9) -/

def zero : F64 := ofBits 0
def one : F64 := ofBits 0x3FF0000000000000
def two : F64 := ofBits 0x4000000000000000
def negOne : F64 := ofBits 0xBFF0000000000000
def thousand : F64 := ofBits 0x408F400000000000

/-- PI, the binary64 nearest to pi. -/
def pi : F64 := ofBits 0x400921FB54442D18

/-- TWO_PI = `2.0 * PI`. -/
def twoPi : F64 := mul two pi

/-- HALF_PI = `PI / 2.0`. -/
def halfPi : F64 := div pi two

/-- TWO_OVER_PI = `2.0 / PI`. -/
def twoOverPi : F64 := div two pi

/-- PDEPTH, the pitch depth 0.25. -/
def pDepth : F64 := ofBits 0x3FD0000000000000

/-- HPF_FC, the output high-pass cutoff 30.0 Hz. -/
def hpfFc : F64 := ofBits 0x403E000000000000

/-- HPF_Q, the binary64 nearest `1/sqrt(2)`. -/
def hpfQ : F64 := ofBits 0x3FE6A09E667F3BCD

/-- PCM_SCALE, 32767.0. -/
def pcmScale : F64 := ofBits 0x40DFFFC000000000

end Sys2Proof.F64
end

