-- ==== Sys2Proof/Machine/OpenFns.lean ====
section
/-! DEFINITION. The open functions of the model with exactly the properties the spec gives them: the
transcendental functions (rule R10) and the noise draws (rule R12), each a free value of Config
brought into the spec's limits (log entries 3 and 4). Every function with R10's properties is the
image of some free value, so a claim proved here holds for each of them. -/

namespace Sys2Proof.Machine

open F64

/-- FSIN: in [-1.0, 1.0] for a finite operand, 0.0 at 0.0, NaN for an infinity or a NaN (R10). At -0.0 only
the range is R10's (log entry 3). -/
def fsin (x : F64) : F64 :=
  if !isFinite x then asNaN (Config.freeSin x)
  else if x = zero then zero
  else clamp (Config.freeSin x) negOne one

/-- FCOS: in [-1.0, 1.0] for a finite operand, 1.0 at 0.0, NaN for an infinity or a NaN (R10). At -0.0 only
the range is R10's (log entry 3). -/
def fcos (x : F64) : F64 :=
  if !isFinite x then asNaN (Config.freeCos x)
  else if x = zero then one
  else clamp (Config.freeCos x) negOne one

/-- FTAN: finite and positive on (0, HALF_PI) (R10); elsewhere unlimited. -/
def ftan (x : F64) : F64 :=
  if lt zero x && lt x halfPi && !(isFinite (Config.freeTan x) && lt zero (Config.freeTan x)) then one
  else Config.freeTan x

/-- FASIN: on [-1.0, 1.0] in [-HALF_PI, HALF_PI] with the three values R10 states; NaN for a NaN;
elsewhere unlimited. At -0.0 only the range is R10's (log entry 3). -/
def fasin (x : F64) : F64 :=
  if isNaN x then asNaN (Config.freeAsin x)
  else if x = zero then zero
  else if eq x one then halfPi
  else if eq x negOne then neg halfPi
  else if le negOne x && le x one then clamp (Config.freeAsin x) (neg halfPi) halfPi
  else Config.freeAsin x

/-- FATAN: odd, in [-HALF_PI, HALF_PI], 0.0 at 0.0 (R10), for every operand, a NaN too (log entry 3). -/
def fatan (x : F64) : F64 :=
  let m := if isZero x then zero else clamp (Config.freeAtan (abs x)) (neg halfPi) halfPi
  if isNeg x then neg m else m

/-- 2^k for an integer exponent of the normal range. -/
def powTwo (k : Int) : F64 := ofBits ((k + 1023).toNat * 2 ^ 52)

/-- FEXP2: positive for a finite operand and exactly 2^k at every integer k in -1022..1023 (R10); for
an infinity or a NaN unlimited. -/
def fexp2 (x : F64) : F64 :=
  if !isFinite x then Config.freeExp2 x
  else if mag x % oneUnits = 0 ∧ -1022 ≤ trunc x ∧ trunc x ≤ 1023 then powTwo (trunc x)
  else if lt zero (Config.freeExp2 x) then Config.freeExp2 x
  else ofBits 1

/-- The element number `k` of the noise draw stream: any sequence in [-1.0, 1.0] (R12). -/
def noiseDraw (k : Nat) : F64 := clamp (Config.freeDraw k) negOne one

/-- The open functions the machine runs with. -/
def openFns : Fns where
  fsin := fsin
  fcos := fcos
  ftan := ftan
  fasin := fasin
  fatan := fatan
  fexp2 := fexp2
  draw := noiseDraw

end Sys2Proof.Machine
end

