-- ==== Sys2Proof/Syntax.lean ====
section
/-! DEFINITION. The commands of VSYNTH-CORE: one constructor per row of spec/opcode_table.json
(rule R85), each with the operand fields of its header word and, in format HD, its data operand. -/

namespace Sys2Proof

/-- The operand fields of a header word (rule R81). A command keeps all three, those it does not use
too: a nonzero unused field is what raises BAD_FIELD (rule R87). -/
structure Fields where
  /-- A, bits 23:20: the first index operand. -/
  a : BitVec 4
  /-- B, bits 19:16: the second index operand. -/
  b : BitVec 4
  /-- IMM, bits 15:0: the immediate operand. -/
  imm : BitVec 16
deriving DecidableEq, Repr, Inhabited

/-- A command (rules R80, R85): format H carries its header fields, format HD its header fields and
the binary64 data operand D. -/
inductive Instr where
  | nop (f : Fields)
  | oscWave (f : Fields)
  | oscVolume (f : Fields) (d : F64)
  | oscGain (f : Fields) (d : F64)
  | oscFreq (f : Fields) (d : F64)
  | oscFine (f : Fields) (d : F64)
  | oscOctave (f : Fields)
  | oscDrone (f : Fields)
  | oscLfo (f : Fields)
  | oscFm (f : Fields) (d : F64)
  | oscAm (f : Fields) (d : F64)
  | envAttack (f : Fields) (d : F64)
  | envDecay (f : Fields) (d : F64)
  | envSustain (f : Fields) (d : F64)
  | envRelease (f : Fields) (d : F64)
  | routeSet (f : Fields)
  | fltCutoff (f : Fields) (d : F64)
  | fltRes (f : Fields) (d : F64)
  | fltPoles (f : Fields)
  | fltMode (f : Fields)
  | shpClipEn (f : Fields)
  | shpClipPos (f : Fields) (d : F64)
  | shpClipNeg (f : Fields) (d : F64)
  | shpCrush (f : Fields)
  | mixMaster (f : Fields) (d : F64)
  | noteOn (f : Fields)
  | noteOff (f : Fields)
  | frame (f : Fields)
  | timeSet (f : Fields) (d : F64)
  | read (f : Fields)
  | statusClr (f : Fields)
  | softReset (f : Fields)
deriving DecidableEq, Repr

end Sys2Proof
end

