-- ==== Sys2Proof/Machine/Operands.lean ====
section
/-! DEFINITION. The operand forms of rules R83 and R84: from a raw field to the operand it selects, `none`
where the form refuses the value (BAD_FIELD, rule R87). The two clamped forms refuse nothing (R285). -/

namespace Sys2Proof.Machine

/-- The operand `k`, where it is below the bound `n`. -/
def below (n k : Nat) : Option (Fin n) := if h : k < n then some ⟨k, h⟩ else none

/-- A field the command does not use must be zero (rule R87). -/
def unused {w : Nat} (v : BitVec w) : Option Unit := if v = 0#w then some () else none

/-- All three fields unused. -/
def noOperands (f : Fields) : Option Unit := do
  unused f.a
  unused f.b
  unused f.imm

/-! ### Index operands (rule R84) -/

/-- *osc*: 0..2. -/
def oscForm (a : BitVec 4) : Option (Fin 3) := below 3 a.toNat

/-- *ch*: clamped to `min(B, 3)`, refused never. -/
def chForm (b : BitVec 4) : Fin 4 := ⟨min b.toNat 3, by omega⟩

/-- *src*: 0..4. -/
def srcForm (a : BitVec 4) : Option (Fin 5) := below 5 a.toNat

/-- *route*: 0..8. -/
def routeForm (b : BitVec 4) : Option (Fin 9) := below 9 b.toNat

/-! ### Immediate operands (rule R83) -/

/-- *kind*: 0..4, by the encoding of rule R21. -/
def kindForm (imm : BitVec 16) : Option Wave :=
  match imm.toNat with
  | 0 => some .sine
  | 1 => some .square
  | 2 => some .saw
  | 3 => some .triangle
  | 4 => some .noise
  | _ => none

/-- *octave*: `int16(IMM)` clamped to -4..4, refused never. -/
def octaveForm (imm : BitVec 16) : Int := max (-4) (min 4 imm.toInt)

/-- *flag*: 0 or 1. -/
def flagForm (imm : BitVec 16) : Option Bool :=
  match imm.toNat with
  | 0 => some false
  | 1 => some true
  | _ => none

/-- *poles*: 2 or 4. -/
def polesForm (imm : BitVec 16) : Option Poles :=
  match imm.toNat with
  | 2 => some .two
  | 4 => some .four
  | _ => none

/-- *mode*: 0..2. -/
def modeForm (imm : BitVec 16) : Option FltMode :=
  match imm.toNat with
  | 0 => some .svfLp
  | 1 => some .bqLp
  | 2 => some .bqHp
  | _ => none

/-- *bits*: 0..24. -/
def bitsForm (imm : BitVec 16) : Option (Fin 25) := below 25 imm.toNat

/-- *note*: a 7-bit note id. -/
def noteForm (imm : BitVec 16) : Option (BitVec 7) :=
  if imm.toNat ≤ 127 then some (imm.setWidth 7) else none

/-- *mask*: bits 4:0; any of bits 15:5 is refused. -/
def maskForm (imm : BitVec 16) : Option (BitVec 5) :=
  if imm.toNat ≤ 0x1F then some (imm.setWidth 5) else none

end Sys2Proof.Machine
end

