-- ==== Sys2Proof/Machine/Ops.lean ====
section
/-! DEFINITION. The operations the command meanings share: writing one register group, raising an error
(this hardware's exception, rules R7, R281), the check order of rule R284, emitting to the two output
streams, and reset. -/

namespace Sys2Proof.Machine

/-- The outcome of a command. -/
abbrev Result := Host.Outcome State Fault Refusal

/-! ### Register groups -/

/-- Rewrite the registers of one oscillator. -/
def State.updOsc (s : State) (i : Fin 3) (f : Osc → Osc) : State :=
  { s with osc := s.osc.set i (f s.osc[i]) }

/-- Rewrite the state of one channel. -/
def State.updChan (s : State) (c : Fin 4) (f : Chan → Chan) : State :=
  { s with chan := s.chan.set c (f s.chan[c]) }

/-- Rewrite one matrix row. -/
def State.updRoute (s : State) (r : Fin 5) (f : BitVec 9 → BitVec 9) : State :=
  { s with route := s.route.set r (f s.route[r]) }

/-! ### Errors -/

/-- `raise`: the error's STATUS bit is set and nothing else changes. There is no trap entry: no register
saves anything and control is not transferred (rules R7, R281, R288), so there is no return either. -/
def raise (e : Err) (s : State) : State := { s with status := setFlag e s.status }

/-- A format-H command: `r` is the state it leaves, `none` where a field is refused (rule R284, check 2). -/
def command (r : Option State) (s : State) : Result :=
  match r with
  | some s' => .next s'
  | none => .next (raise .badField s)

/-- A format-HD command: BAD_FIELD before NONFINITE (rule R284, checks 2 and 3), then its effect. -/
def commandD (r : Option State) (d : F64) (s : State) : Result :=
  match r with
  | some s' => if d.isFinite then .next s' else .next (raise .nonfinite s)
  | none => .next (raise .badField s)

/-! ### Output streams -/

/-- `emit FRAME(v)`: append a frame to the output stream (rules R7, R262). -/
def emitFrame (v : List Sample) (s : State) : State := { s with frames := s.frames ++ [v] }

/-- `emit READ_RESPONSE(v)`: append a value to the response stream (rules R264, R265). -/
def emitResponse (v : Image) (s : State) : State := { s with responses := s.responses ++ [v] }

/-! ### Reset -/

/-- `reset()`: every register takes its reset value (rule R300). The parameters keep their values, and
the emitted frames and responses, the draw stream and the words still to come are not touched (R302). -/
def resetRegisters (s : State) : State :=
  { State.resetWith s.cfg with
    input := s.input, draws := s.draws, frames := s.frames, responses := s.responses }

/-! ### Channels and time -/

/-- The channels 0..NCH-1 in ascending order. -/
def liveChannels (p : Params) : List (Fin 4) := [0, 1, 2, 3].filter fun c => decide (c.val < p.nch)

/-- `DT = 1.0 / FS` (rule R43). -/
def dt (p : Params) : F64 := F64.div F64.one p.fs

end Sys2Proof.Machine
end

