-- ==== Sys2Proof/Machine/Envelope.lean ====
section
/-! DEFINITION. The envelope (rules R140 to R146), its four setters (rules R150 to R153) and the two key
events (rules R160, R161). -/

namespace Sys2Proof.Machine

open F64

/-! ### Time base -/

/-- Seconds since the frame count `n0`: `Num((N - n0) mod 2^64) / FS` (rule R141). -/
def elapsed (fs : F64) (n n0 : BitVec 64) : F64 := div (ofNat (n - n0).toNat) fs

/-- A window register in seconds: `w / 1000.0` (rule R141). -/
def seconds (w : F64) : F64 := div w thousand

/-- `e(N)`, seconds since the trigger start. -/
def Env.e (v : Env) (fs : F64) (n : BitVec 64) : F64 := elapsed fs n v.nOn

/-- `r(N)`, seconds since the trigger end. -/
def Env.r (v : Env) (fs : F64) (n : BitVec 64) : F64 := elapsed fs n v.nOff

/-! ### States (rule R140), read off the registers -/

/-- The envelope states of rule R140. -/
inductive Phase where
  | idle
  | attack
  | decay
  | sustain
  | autoRelease
  | release
deriving DecidableEq, Repr

/-- The state the registers and `N` make (rule R140); no register holds it. -/
def envPhase (fs : F64) (v : Env) (n : BitVec 64) : Phase :=
  if !v.active then .idle
  else if v.released then .release
  else if lt (v.e fs n) (seconds v.attack) then .attack
  else if eq v.sustain zero then .autoRelease
  else if lt (sub (v.e fs n) (seconds v.attack)) (seconds v.decay) then .decay
  else .sustain

/-- A fall to 0 over the release window, from `level`, `x` seconds after it began (rule R142). -/
def releaseRamp (v : Env) (level x : F64) : F64 :=
  if le (seconds v.release) x then zero
  else mul level (sub one (div x (seconds v.release)))

/-- `env_amp(N)` (rule R142). -/
def envAmp (fs : F64) (v : Env) (n : BitVec 64) : F64 :=
  match envPhase fs v n with
  | .idle => zero
  | .release => releaseRamp v v.aOff (v.r fs n)
  | .attack => div (v.e fs n) (seconds v.attack)
  | .decay =>
    sub one (mul (sub one v.sustain) (div (sub (v.e fs n) (seconds v.attack)) (seconds v.decay)))
  | .sustain => v.sustain
  | .autoRelease => releaseRamp v one (sub (v.e fs n) (seconds v.attack))

/-- `env_done(N)` (rule R143). -/
def envDone (fs : F64) (v : Env) (n : BitVec 64) : Bool :=
  match envPhase fs v n with
  | .release => le (seconds v.release) (v.r fs n)
  | .autoRelease =>
    le (seconds v.attack) (v.e fs n) &&
      le (seconds v.release) (sub (v.e fs n) (seconds v.attack))
  | .idle | .attack | .decay | .sustain => false

/-! ### Start, stop, end of frame -/

/-- `env_start()` (rule R144). -/
def envStart (s : State) : State :=
  { s with env := { s.env with nOn := s.N, active := true, released := false } }

/-- `env_stop()` (rule R145): the level is captured with the registers as they are before. -/
def envStop (s : State) : State :=
  { s with env := { s.env with aOff := envAmp s.cfg.fs s.env s.N, nOff := s.N, released := true } }

/-- `env_end_of_frame()` (rule R146). -/
def envEndOfFrame (s : State) : State :=
  if envDone s.cfg.fs s.env s.N then { s with env := { s.env with active := false } } else s

/-! ### Setters -/

/-- A window of time: a negative value is clamped to 0.0 and -0.0 stays (rules R150, R285). -/
def clampWindow (d : F64) : F64 := if le zero d then d else zero

/-- A setter of an envelope register: no operand but D. -/
def setEnv (f : Fields) (d : F64) (upd : Env → Env) (s : State) : Result :=
  commandD (do
    noOperands f
    some { s with env := upd s.env }) d s

/-- ENV_ATTACK `D` (rule R150). -/
def execEnvAttack (f : Fields) (d : F64) (s : State) : Result :=
  setEnv f d (fun v => { v with attack := clampWindow d }) s

/-- ENV_DECAY `D` (rule R151). -/
def execEnvDecay (f : Fields) (d : F64) (s : State) : Result :=
  setEnv f d (fun v => { v with decay := clampWindow d }) s

/-- ENV_SUSTAIN `D` (rule R152). -/
def execEnvSustain (f : Fields) (d : F64) (s : State) : Result :=
  setEnv f d (fun v => { v with sustain := clamp d zero one }) s

/-- ENV_RELEASE `D` (rule R153). -/
def execEnvRelease (f : Fields) (d : F64) (s : State) : Result :=
  setEnv f d (fun v => { v with release := clampWindow d }) s

/-! ### Key events -/

/-- Add a note that is not held to a set that is not full; the count 0 -> 1 starts the envelope (R160). -/
def addNote (n : BitVec 7) (s : State) : State :=
  if s.held = [] then envStart { s with held := s.held ++ [n] } else { s with held := s.held ++ [n] }

/-- The effect of NOTE_ON on the note `n` (rule R160). -/
def noteOn (n : BitVec 7) (s : State) : State :=
  if n ∈ s.held then s
  else if s.held.length = s.cfg.maxNotes then raise .noteFull s
  else addNote n s

/-- The effect of NOTE_OFF on the note `n` (rule R161): the count 1 -> 0 stops the envelope. -/
def noteOff (n : BitVec 7) (s : State) : State :=
  if n ∈ s.held then
    if s.held.erase n = [] then envStop { s with held := s.held.erase n }
    else { s with held := s.held.erase n }
  else s

/-- NOTE_ON `note` (rule R160). -/
def execNoteOn (f : Fields) (s : State) : Result :=
  command (do
    unused f.a
    unused f.b
    let n ← noteForm f.imm
    some (noteOn n s)) s

/-- NOTE_OFF `note` (rule R161). -/
def execNoteOff (f : Fields) (s : State) : Result :=
  command (do
    unused f.a
    unused f.b
    let n ← noteForm f.imm
    some (noteOff n s)) s

end Sys2Proof.Machine
end

