-- ==== Sys2Proof/Machine/Filter.lean ====
section
/-! DEFINITION. The filter stages and shapers (rules R181 to R189) and their eight setters (rules R195 to
R202). -/

namespace Sys2Proof.Machine

open F64

/-! ### Biquad -/

/-- The two kinds of biquad (rule R181). -/
inductive BqKind where
  | lp
  | hp
deriving DecidableEq, Repr

/-- The normalised coefficients of a biquad (rule R181). -/
structure Coef where
  b0 : F64
  b1 : F64
  b2 : F64
  a1 : F64
  a2 : F64
deriving DecidableEq, Repr

/-- `bq_coef(kind, fc, Q)` (rule R181). -/
def bqCoef (F : Fns) (fs : F64) (kind : BqKind) (fc q : F64) : Coef :=
  let w0 := div (mul twoPi fc) fs
  let cw := F.fcos w0
  let sw := F.fsin w0
  let alpha := div sw (mul two q)
  let b0 := match kind with
    | .lp => div (sub one cw) two
    | .hp => div (add one cw) two
  let b1 := match kind with
    | .lp => sub one cw
    | .hp => neg (add one cw)
  let a0 := add one alpha
  let a1 := mul (neg two) cw
  let a2 := sub one alpha
  { b0 := div b0 a0, b1 := div b1 a0, b2 := div b0 a0, a1 := div a1 a0, a2 := div a2 a0 }

/-- `bq_step` (rule R183), Direct Form II transposed: the output and the cells after it. -/
def bqStep (k : Coef) (z : Cells) (x : F64) : F64 × Cells :=
  let y := add (mul k.b0 x) z.s1
  (y, { s1 := add (sub (mul k.b1 x) (mul k.a1 y)) z.s2, s2 := sub (mul k.b2 x) (mul k.a2 y) })

/-! ### State-variable filter -/

/-- `svf_step` (rule R184): the low-pass output and the cells after it. -/
def svfStep (F : Fns) (fs fc q : F64) (z : Cells) (x : F64) : F64 × Cells :=
  let g := F.ftan (div (mul pi fc) fs)
  let k := div one q
  let a1 := div one (add one (mul g (add g k)))
  let a2 := mul g a1
  let a3 := mul g a2
  let v3 := sub x z.s2
  let v1 := add (mul a1 z.s1) (mul a2 v3)
  let v2 := add z.s2 (add (mul a2 z.s1) (mul a3 v3))
  (v2, { s1 := sub (mul two v1) z.s1, s2 := sub (mul two v2) z.s2 })

/-- `svf_cascade` (rule R185): one instance for 2 poles, two in series for 4. -/
def svfCascade (F : Fns) (fs : F64) (flt : Flt) (fc x : F64) (z : Chan) : F64 × Chan :=
  let r0 := svfStep F fs fc flt.res z.svf0 x
  match flt.poles with
  | .two => (r0.1, { z with svf0 := r0.2 })
  | .four =>
    let r1 := svfStep F fs fc flt.res z.svf1 r0.1
    (r1.1, { z with svf0 := r0.2, svf1 := r1.2 })

/-! ### Shapers -/

/-- `soft_clip(y)` (rule R187); a NaN takes CLIP_NEG. -/
def softClip (F : Fns) (h : Shp) (y : F64) : F64 :=
  mul twoOverPi (F.fatan (mul (if le zero y then h.clipPos else h.clipNeg) y))

/-- `bit_crush(y)` (rule R188) at the depth `b`, which is 1..24 where it is applied. A `y` that is not finite
passes unchanged, its bit pattern too. -/
def bitCrush (F : Fns) (b : Fin 25) (y : F64) : F64 :=
  let q := F.fexp2 (ofNat (b.val - 1))
  if isFinite y then div (roundAway (mul y q)) q else y

/-- `shape(y)` (rule R189): soft-clip, then bit-crush, each where it is on. -/
def shape (F : Fns) (h : Shp) (y : F64) : F64 :=
  let y1 := if h.clipEn then softClip F h y else y
  if h.crush ≠ 0 then bitCrush F h.crush y1 else y1

/-! ### Main filter -/

/-- The filter instance FLT.MODE selects (rule R186): its output and the channel's cells after it. -/
def filterCore (F : Fns) (fs : F64) (flt : Flt) (fc x : F64) (z : Chan) : F64 × Chan :=
  match flt.mode with
  | .svfLp => svfCascade F fs flt fc x z
  | .bqLp =>
    let r := bqStep (bqCoef F fs .lp fc flt.res) z.bq x
    (r.1, { z with bq := r.2 })
  | .bqHp =>
    let r := bqStep (bqCoef F fs .hp fc flt.res) z.bq x
    (r.1, { z with bq := r.2 })

/-- `main_filter(c, fc, x)` (rule R186), shapers included. -/
def mainFilter (F : Fns) (fs : F64) (flt : Flt) (h : Shp) (fc x : F64) (z : Chan) : F64 × Chan :=
  let r := filterCore F fs flt fc x z
  (shape F h r.1, r.2)

/-! ### Setters -/

/-- A Num setter of the filter or the shapers: no operand but D. -/
def setNum (f : Fields) (d : F64) (s' s : State) : Result :=
  commandD (do
    noOperands f
    some s') d s

/-- FLT_CUTOFF `D` (rule R195): stored unclamped. -/
def execFltCutoff (f : Fields) (d : F64) (s : State) : Result :=
  setNum f d { s with flt := { s.flt with cutoff := d } } s

/-- FLT_RES `D` (rule R196): clamped to [Q_MIN, Q_MAX]. -/
def execFltRes (f : Fields) (d : F64) (s : State) : Result :=
  setNum f d { s with flt := { s.flt with res := clamp d Config.qMin Config.qMax } } s

/-- FLT_POLES `poles` (rule R197). -/
def execFltPoles (f : Fields) (s : State) : Result :=
  command (do
    unused f.a
    unused f.b
    let p ← polesForm f.imm
    some { s with flt := { s.flt with poles := p } }) s

/-- FLT_MODE `mode` (rule R198). -/
def execFltMode (f : Fields) (s : State) : Result :=
  command (do
    unused f.a
    unused f.b
    let m ← modeForm f.imm
    some { s with flt := { s.flt with mode := m } }) s

/-- SHP_CLIP_EN `flag` (rule R199). -/
def execShpClipEn (f : Fields) (s : State) : Result :=
  command (do
    unused f.a
    unused f.b
    let v ← flagForm f.imm
    some { s with shp := { s.shp with clipEn := v } }) s

/-- SHP_CLIP_POS `D` (rule R200). -/
def execShpClipPos (f : Fields) (d : F64) (s : State) : Result :=
  setNum f d { s with shp := { s.shp with clipPos := d } } s

/-- SHP_CLIP_NEG `D` (rule R201). -/
def execShpClipNeg (f : Fields) (d : F64) (s : State) : Result :=
  setNum f d { s with shp := { s.shp with clipNeg := d } } s

/-- SHP_CRUSH `bits` (rule R202). -/
def execShpCrush (f : Fields) (s : State) : Result :=
  command (do
    unused f.a
    unused f.b
    let b ← bitsForm f.imm
    some { s with shp := { s.shp with crush := b } }) s

end Sys2Proof.Machine
end

