-- ==== Sys2Proof/Machine/Oscillator.lean ====
section
/-! DEFINITION. The oscillator: the waveform function `play` (rules R100 to R106), the note frequency
lookup (rule R125), and the ten oscillator setters (rules R110 to R119). -/

namespace Sys2Proof.Machine

open F64

/-! ### The waveform function -/

/-- `sine_val` (rule R101). -/
def sineVal (F : Fns) (f t fm : F64) : F64 := F.fsin (add (mul (mul twoPi f) t) fm)

/-- SQ_TIE as a number (rule R5). -/
def tieValue : SqTie → F64
  | .minusOne => negOne
  | .zero => zero
  | .plusOne => one

/-- The square wave of a sine value (rule R102): a zero of either sign and a NaN take SQ_TIE. -/
def squareOf (tie : SqTie) (s : F64) : F64 :=
  if lt zero s then one else if lt s zero then negOne else tieValue tie

/-- The saw at time `t` for the frequency `f + FM` (rule R103). -/
def sawOf (f t : F64) : F64 :=
  if eq f zero then neg halfPi
  else sub (mul (mul f twoPi) (fmod t (div one f))) halfPi

/-- The raw waveform value and the draws consumed after it (rules R101 to R105); `k` elements of the
draw stream were consumed before. -/
def rawWave (F : Fns) (tie : SqTie) (o : Osc) (f t : F64) (k : Nat) : F64 × Nat :=
  match o.wave with
  | .sine => (sineVal F f t o.fm, k)
  | .square => (squareOf tie (sineVal F f t o.fm), k)
  | .saw => (sawOf (add f o.fm) t, k)
  | .triangle => (F.fasin (sineVal F f t o.fm), k)
  | .noise => (F.draw k, k + 1)

/-- `play` (rules R100, R106): the raw value times the channel's gain times the current amplitude. -/
def play (F : Fns) (tie : SqTie) (o : Osc) (f t : F64) (c : Fin 4) (k : Nat) : F64 × Nat :=
  (mul (mul (rawWave F tie o f t k).1 o.gain[c]) o.amp, (rawWave F tie o f t k).2)

/-! ### Note frequency -/

/-- The scale index `n + 12 * OCTAVE` (rule R125). -/
def scaleIndex (o : Osc) (n : BitVec 7) : Int := n.toNat + 12 * o.octave

/-- `note_freq` (rule R125): none where the note is skipped for this oscillator. -/
def noteFreq (p : Params) (o : Osc) (n : BitVec 7) : Option F64 :=
  if 0 ≤ scaleIndex o n ∧ scaleIndex o n ≤ 107 then p.scale[(scaleIndex o n).toNat]? else none

/-! ### Setters -/

/-- OSC_WAVE `osc, kind` (rule R110). -/
def execOscWave (f : Fields) (s : State) : Result :=
  command (do
    let i ← oscForm f.a
    unused f.b
    let k ← kindForm f.imm
    some (s.updOsc i fun o => { o with wave := k })) s

/-- A setter of one Num register of an oscillator: A the oscillator, B and IMM unused. -/
def setOscNum (f : Fields) (d : F64) (upd : Osc → Osc) (s : State) : Result :=
  commandD (do
    let i ← oscForm f.a
    unused f.b
    unused f.imm
    some (s.updOsc i upd)) d s

/-- OSC_VOLUME `osc, D` (rule R111): writes VOLUME and AMP. -/
def execOscVolume (f : Fields) (d : F64) (s : State) : Result :=
  setOscNum f d (fun o => { o with volume := d, amp := d }) s

/-- OSC_GAIN `osc, ch, D` (rule R112): the channel index is clamped to 3. -/
def execOscGain (f : Fields) (d : F64) (s : State) : Result :=
  commandD (do
    let i ← oscForm f.a
    unused f.imm
    some (s.updOsc i fun o => { o with gain := o.gain.set (chForm f.b) d })) d s

/-- OSC_FREQ `osc, D` (rule R113). -/
def execOscFreq (f : Fields) (d : F64) (s : State) : Result :=
  setOscNum f d (fun o => { o with freq := d }) s

/-- OSC_FINE `osc, D` (rule R114). -/
def execOscFine (f : Fields) (d : F64) (s : State) : Result :=
  setOscNum f d (fun o => { o with fine := d }) s

/-- OSC_OCTAVE `osc, octave` (rule R115): clamped, refused never. -/
def execOscOctave (f : Fields) (s : State) : Result :=
  command (do
    let i ← oscForm f.a
    unused f.b
    some (s.updOsc i fun o => { o with octave := octaveForm f.imm })) s

/-- A setter of one flag of an oscillator: A the oscillator, B unused, IMM the flag. -/
def setOscFlag (f : Fields) (upd : Bool → Osc → Osc) (s : State) : Result :=
  command (do
    let i ← oscForm f.a
    unused f.b
    let v ← flagForm f.imm
    some (s.updOsc i (upd v))) s

/-- OSC_DRONE `osc, flag` (rule R116). -/
def execOscDrone (f : Fields) (s : State) : Result :=
  setOscFlag f (fun v o => { o with drone := v }) s

/-- OSC_LFO `osc, flag` (rule R117). -/
def execOscLfo (f : Fields) (s : State) : Result :=
  setOscFlag f (fun v o => { o with lfo := v }) s

/-- OSC_FM `osc, D` (rule R118). -/
def execOscFm (f : Fields) (d : F64) (s : State) : Result :=
  setOscNum f d (fun o => { o with fm := d }) s

/-- OSC_AM `osc, D` (rule R119): writes AMP and leaves VOLUME. -/
def execOscAm (f : Fields) (d : F64) (s : State) : Result :=
  setOscNum f d (fun o => { o with amp := d }) s

end Sys2Proof.Machine
end

