-- ==== Sys2Proof/Machine/Matrix.lean ====
section
/-! DEFINITION. The routing matrix, the Composer pass and the PCM conversion (rules R220 to R238), and the
setters ROUTE_SET (rule R222) and MIX_MASTER (rule R240). -/

namespace Sys2Proof.Machine

open F64

/-! ### The matrix -/

/-- The matrix cell M(s, r) (rule R220). -/
def cell (route : Vector (BitVec 9) 5) (s : Fin 5) (r : Nat) : Bool := route[s].getLsbD r

/-- The source rows in ascending order. -/
def sources : List (Fin 5) := [0, 1, 2, 3, 4]

/-- The oscillators in ascending order. -/
def oscillators : List (Fin 3) := [0, 1, 2]

/-- A column is active when some source has its cell set (rule R220). -/
def columnActive (route : Vector (BitVec 9) 5) (r : Nat) : Bool := sources.any fun s => cell route s r

/-- The columns of rule R34: pitch and amplitude of oscillator `j`, filter input, cutoff, mixer. -/
def pitchCol (j : Fin 3) : Nat := j.val
def ampCol (j : Fin 3) : Nat := 3 + j.val
def filterInCol : Nat := 6
def cutoffCol : Nat := 7
def mixerCol : Nat := 8

/-- `val(s, c)` (rule R221): an oscillator's current output, the Filter device's latest output for the
channel, the frame's envelope value. -/
def sourceVal (out : Vector F64 3) (fprev e : F64) (s : Fin 5) : F64 :=
  match s with
  | 0 => out[0]
  | 1 => out[1]
  | 2 => out[2]
  | 3 => fprev
  | 4 => e

/-! ### The pass -/

/-- What steps 1 to 3 of a pass work on: the oscillator registers, the outputs OUT[0..2] and the
draws consumed (rules R46, R230). -/
structure Pass where
  osc : Vector Osc 3
  out : Vector F64 3
  draws : Nat
deriving DecidableEq, Repr

/-- What a pass reads and does not write: the frame's time and envelope value, the channel and its
FPREV from the frame before, and the configuration. -/
structure Ctx where
  cfg : Params
  route : Vector (BitVec 9) 5
  held : List (BitVec 7)
  t : F64
  e : F64
  c : Fin 4
  fprev : F64

/-- The context of the pass for channel `c`. -/
def ctxOf (s : State) (e : F64) (c : Fin 4) : Ctx where
  cfg := s.cfg
  route := s.route
  held := s.held
  t := s.T
  e := e
  c := c
  fprev := s.chan[c].fprev

/-- The sum over the held notes, in HELD order from 0.0, and the draws consumed after it (rule R231). -/
def noteSum (F : Fns) (x : Ctx) (o : Osc) (k : Nat) : F64 × Nat :=
  x.held.foldl (fun a n =>
    match noteFreq x.cfg o n with
    | some f =>
      let r := play F x.cfg.sqTie o f x.t x.c a.2
      (add a.1 (mul x.e r.1), r.2)
    | none => a) (zero, k)

/-- One oscillator of step 1 (rule R231): a drone plays its own frequency and takes no envelope. -/
def rawOutput (F : Fns) (x : Ctx) (o : Osc) (k : Nat) : F64 × Nat :=
  if o.drone then play F x.cfg.sqTie o o.freq x.t x.c k else noteSum F x o k

/-- One oscillator of step 1: OUT[i] and the draws consumed. -/
def rawVoice (F : Fns) (x : Ctx) (p : Pass) (i : Fin 3) : Pass :=
  let r := rawOutput F x p.osc[i] p.draws
  { p with out := p.out.set i r.1, draws := r.2 }

/-- Step 1 (rule R231): the oscillators in ascending order. -/
def step1 (F : Fns) (x : Ctx) (p : Pass) : Pass := oscillators.foldl (rawVoice F x) p

/-- The output of a target is evaluated again only in drone mode (rules R232, R233). -/
def reEvaluate (F : Fns) (x : Ctx) (j : Fin 3) (p : Pass) : Pass :=
  if p.osc[j].drone then
    let r := play F x.cfg.sqTie p.osc[j] p.osc[j].freq x.t x.c p.draws
    { p with out := p.out.set j r.1, draws := r.2 }
  else p

/-- The FM a pitch target accumulates from 0.0 (rule R232). -/
def fmSum (x : Ctx) (p : Pass) (j : Fin 3) : F64 :=
  sources.foldl (fun a s =>
    if cell x.route s (pitchCol j) then
      add a (mul (mul pDepth p.osc[j].freq) (sourceVal p.out x.fprev x.e s))
    else a) zero

/-- One target of step 2 (rule R232). -/
def pitchTarget (F : Fns) (x : Ctx) (p : Pass) (j : Fin 3) : Pass :=
  if columnActive x.route (pitchCol j) then
    reEvaluate F x j { p with osc := p.osc.set j { p.osc[j] with fm := fmSum x p j } }
  else p

/-- Step 2 (rule R232): targets in ascending order. -/
def step2 (F : Fns) (x : Ctx) (p : Pass) : Pass := oscillators.foldl (pitchTarget F x) p

/-- The amplitude a target accumulates from VOLUME (rule R233). -/
def ampProduct (x : Ctx) (p : Pass) (j : Fin 3) : F64 :=
  sources.foldl (fun a s =>
    if cell x.route s (ampCol j) then mul a (sourceVal p.out x.fprev x.e s) else a) p.osc[j].volume

/-- One target of step 3 (rule R233). -/
def ampTarget (F : Fns) (x : Ctx) (p : Pass) (j : Fin 3) : Pass :=
  if columnActive x.route (ampCol j) then
    reEvaluate F x j { p with osc := p.osc.set j { p.osc[j] with amp := ampProduct x p j } }
  else p

/-- Step 3 (rule R233): targets in ascending order. -/
def step3 (F : Fns) (x : Ctx) (p : Pass) : Pass := oscillators.foldl (ampTarget F x) p

/-- The sum, from 0.0 in ascending order, of the values of the given sources routed to a column. -/
def routedSum (x : Ctx) (out : Vector F64 3) (fprev : F64) (rows : List (Fin 5)) (r : Nat) : F64 :=
  rows.foldl (fun a s => if cell x.route s r then add a (sourceVal out fprev x.e s) else a) zero

/-- Step 4 (rule R234): only the oscillator rows of the column are read. -/
def step4 (x : Ctx) (out : Vector F64 3) : F64 := routedSum x out x.fprev [0, 1, 2] filterInCol

/-- The sources step 5 reads: every row but Filter (rule R235). -/
def cutoffSources : List (Fin 5) := [0, 1, 2, 4]

/-- The effective cutoff FC of step 5 (rule R235): a NaN gives FC_MIN. -/
def effectiveCutoff (F : Fns) (x : Ctx) (cutoff : F64) (out : Vector F64 3) : F64 :=
  clamp
    (if cutoffSources.any fun s => cell x.route s cutoffCol then
      mul cutoff (F.fexp2 (mul x.cfg.cutOct (routedSum x out x.fprev cutoffSources cutoffCol)))
    else cutoff)
    Config.fcMin Config.fcMax

/-- Step 6 (rule R236), with the channel's FPREV of this pass. -/
def step6 (x : Ctx) (out : Vector F64 3) (fprev master : F64) : F64 :=
  mul (routedSum x out fprev sources mixerCol) master

/-- Steps 1 to 3 of the pass for channel `c`: the outputs start at 0.0 and step 1 sets all three. -/
def voices (F : Fns) (s : State) (e : F64) (c : Fin 4) : Pass :=
  step3 F (ctxOf s e c) (step2 F (ctxOf s e c) (step1 F (ctxOf s e c)
    { osc := s.osc, out := #v[zero, zero, zero], draws := s.draws }))

/-- Steps 4 and 5: the main filter on the pass's outputs; the channel with its cells and FPREV after. -/
def filterStage (F : Fns) (s : State) (e : F64) (c : Fin 4) (out : Vector F64 3) : Chan :=
  let x := ctxOf s e c
  let r := mainFilter F s.cfg.fs s.flt s.shp (effectiveCutoff F x s.flt.cutoff out) (step4 x out)
    s.chan[c]
  { r.2 with fprev := r.1 }

/-- Steps 6 and 7 (rules R236, R237): the mixer and the output high-pass; the conditioned sample and the
channel with its high-pass cells after. -/
def outputStage (F : Fns) (s : State) (e : F64) (c : Fin 4) (out : Vector F64 3) (z : Chan) :
    F64 × Chan :=
  let r := bqStep (bqCoef F s.cfg.fs .hp hpfFc hpfQ) z.hp (step6 (ctxOf s e c) out z.fprev s.master)
  (r.1, { z with hp := r.2 })

/-- `compose(c)` (rule R230): the conditioned sample and the state after the pass. -/
def compose (F : Fns) (e : F64) (s : State) (c : Fin 4) : F64 × State :=
  let p := voices F s e c
  let r := outputStage F s e c p.out (filterStage F s e c p.out)
  (r.1, { s with osc := p.osc, draws := p.draws, chan := s.chan.set c r.2 })

/-! ### PCM conversion -/

/-- `pcm(y)` (rule R238) as an integer: NaN gives 0, else the clamped value scaled and cut toward zero. -/
def pcmInt (y : F64) : Int := if isNaN y then 0 else trunc (mul (clamp y negOne one) pcmScale)

/-- `pcm(y)` as the 16-bit sample. -/
def pcm (y : F64) : BitVec 16 := BitVec.ofInt 16 (pcmInt y)

/-! ### Setters -/

/-- The matrix row after ROUTE_SET (rule R222): setting the mixer bit clears the rest of the row. -/
def routeRow (r : Fin 9) (flag : Bool) (row : BitVec 9) : BitVec 9 :=
  if r = 8 ∧ flag then 0x100#9
  else if flag then row ||| (1#9 <<< r.val)
  else row &&& ~~~(1#9 <<< r.val)

/-- ROUTE_SET `src, route, flag` (rule R222). -/
def execRouteSet (f : Fields) (s : State) : Result :=
  command (do
    let src ← srcForm f.a
    let r ← routeForm f.b
    let v ← flagForm f.imm
    some (s.updRoute src (routeRow r v))) s

/-- MIX_MASTER `D` (rule R240). -/
def execMixMaster (f : Fields) (d : F64) (s : State) : Result :=
  commandD (do
    noOperands f
    some { s with master := d }) d s

end Sys2Proof.Machine
end

