-- ==== Sys2Proof/Machine/Registers.lean ====
section
/-! DEFINITION. The register read space: the address map (rule R62) and the 64-bit image of each register
(rule R63). -/

namespace Sys2Proof.Machine

/-! ### Register names -/

/-- The registers of an oscillator, in the order of their addresses. -/
inductive OscReg where
  | wave | volume | amp | freq | fine | octave | drone | lfo | fm
deriving DecidableEq, Repr

/-- The registers of the envelope, in the order of their addresses. -/
inductive EnvReg where
  | attack | decay | sustain | release | flags | nOn | nOff | aOff
deriving DecidableEq, Repr

/-- The filter and shaper registers, in the order of their addresses. -/
inductive FltReg where
  | cutoff | res | poles | mode | clipEn | clipPos | clipNeg | crush
deriving DecidableEq, Repr

/-- The registers of a channel, in the order of their addresses. -/
inductive ChanReg where
  | bqS1 | bqS2 | svf0Ic1 | svf0Ic2 | svf1Ic1 | svf1Ic2 | hpS1 | hpS2 | fprev | outNum | outPcm
deriving DecidableEq, Repr

/-- Every register of rule R62. -/
inductive Reg where
  | osc (i : Fin 3) (r : OscReg)
  | gain (i : Fin 3) (k : Fin 4)
  | env (r : EnvReg)
  | route (s : Fin 5)
  | flt (r : FltReg)
  | master
  | chan (c : Fin 4) (r : ChanReg)
  | time
  | frameCount
  | status
  | heldCount
  | held (k : Nat)
  | cfgFs
  | cfgNch
  | cfgMaxNotes
deriving DecidableEq, Repr

def oscRegs : List OscReg := [.wave, .volume, .amp, .freq, .fine, .octave, .drone, .lfo, .fm]

def envRegs : List EnvReg := [.attack, .decay, .sustain, .release, .flags, .nOn, .nOff, .aOff]

def fltRegs : List FltReg := [.cutoff, .res, .poles, .mode, .clipEn, .clipPos, .clipNeg, .crush]

def chanRegs : List ChanReg :=
  [.bqS1, .bqS2, .svf0Ic1, .svf0Ic2, .svf1Ic1, .svf1Ic2, .hpS1, .hpS2, .fprev, .outNum, .outPcm]

/-! ### The address map -/

/-- The oscillator block at 0x0000: `i = a / 0x20`, registers at offsets 0..8, gains at 0x10..0x13. -/
def oscAt (a : Nat) : Option Reg := do
  let i ← below 3 (a / 0x20)
  if a % 0x20 < 0x10 then (oscRegs[a % 0x20]?).map (Reg.osc i)
  else (below 4 (a % 0x20 - 0x10)).map (Reg.gain i)

/-- The channel block at 0x0500: channels below NCH, registers at offsets 0..0xA. -/
def chanAt (p : Params) (a : Nat) : Option Reg := do
  let c ← below 4 ((a - 0x500) / 0x10)
  if c.val < p.nch then (chanRegs[(a - 0x500) % 0x10]?).map (Reg.chan c) else none

/-- The block at 0x0600: T, N, STATUS, HELD_COUNT, and from 0x0610 the slots below MAX_NOTES. -/
def timeAt (p : Params) (a : Nat) : Option Reg :=
  if a < 0x610 then [Reg.time, .frameCount, .status, .heldCount][a - 0x600]?
  else if a - 0x610 < p.maxNotes then some (.held (a - 0x610))
  else none

/-- The register an address names, none where it is unmapped (rules R62, R64). -/
def regAt (p : Params) (addr : BitVec 16) : Option Reg :=
  let a := addr.toNat
  if a < 0x100 then oscAt a
  else if a < 0x200 then (envRegs[a - 0x100]?).map Reg.env
  else if a < 0x300 then (below 5 (a - 0x200)).map Reg.route
  else if a < 0x400 then (fltRegs[a - 0x300]?).map Reg.flt
  else if a < 0x500 then [Reg.master][a - 0x400]?
  else if a < 0x600 then chanAt p a
  else if a < 0x700 then timeAt p a
  else [Reg.cfgFs, .cfgNch, .cfgMaxNotes][a - 0x700]?

/-- The address column of rule R62, register by register. -/
def Reg.addr : Reg → Nat
  | .osc i .wave => 0x0000 + 0x20 * i
  | .osc i .volume => 0x0001 + 0x20 * i
  | .osc i .amp => 0x0002 + 0x20 * i
  | .osc i .freq => 0x0003 + 0x20 * i
  | .osc i .fine => 0x0004 + 0x20 * i
  | .osc i .octave => 0x0005 + 0x20 * i
  | .osc i .drone => 0x0006 + 0x20 * i
  | .osc i .lfo => 0x0007 + 0x20 * i
  | .osc i .fm => 0x0008 + 0x20 * i
  | .gain i k => 0x0010 + 0x20 * i + k
  | .env .attack => 0x0100
  | .env .decay => 0x0101
  | .env .sustain => 0x0102
  | .env .release => 0x0103
  | .env .flags => 0x0104
  | .env .nOn => 0x0105
  | .env .nOff => 0x0106
  | .env .aOff => 0x0107
  | .route s => 0x0200 + s
  | .flt .cutoff => 0x0300
  | .flt .res => 0x0301
  | .flt .poles => 0x0302
  | .flt .mode => 0x0303
  | .flt .clipEn => 0x0304
  | .flt .clipPos => 0x0305
  | .flt .clipNeg => 0x0306
  | .flt .crush => 0x0307
  | .master => 0x0400
  | .chan c .bqS1 => 0x0500 + 0x10 * c
  | .chan c .bqS2 => 0x0501 + 0x10 * c
  | .chan c .svf0Ic1 => 0x0502 + 0x10 * c
  | .chan c .svf0Ic2 => 0x0503 + 0x10 * c
  | .chan c .svf1Ic1 => 0x0504 + 0x10 * c
  | .chan c .svf1Ic2 => 0x0505 + 0x10 * c
  | .chan c .hpS1 => 0x0506 + 0x10 * c
  | .chan c .hpS2 => 0x0507 + 0x10 * c
  | .chan c .fprev => 0x0508 + 0x10 * c
  | .chan c .outNum => 0x0509 + 0x10 * c
  | .chan c .outPcm => 0x050A + 0x10 * c
  | .time => 0x0600
  | .frameCount => 0x0601
  | .status => 0x0602
  | .heldCount => 0x0603
  | .held k => 0x0610 + k
  | .cfgFs => 0x0700
  | .cfgNch => 0x0701
  | .cfgMaxNotes => 0x0702

/-! ### Images -/

/-- An unsigned value of at most 64 bits (rule R63). -/
def unsignedImage (n : Nat) : Image := BitVec.ofNat 64 n

/-- The code of a waveform kind (rule R21). -/
def waveCode : Wave → Nat
  | .sine => 0
  | .square => 1
  | .saw => 2
  | .triangle => 3
  | .noise => 4

/-- The code of a filter mode (rule R35). -/
def modeCode : FltMode → Nat
  | .svfLp => 0
  | .bqLp => 1
  | .bqHp => 2

/-- FLT.POLES as the number it holds (rule R35). -/
def polesCode : Poles → Nat
  | .two => 2
  | .four => 4

def oscImage (o : Osc) : OscReg → Image
  | .wave => unsignedImage (waveCode o.wave)
  | .volume => o.volume.bits
  | .amp => o.amp.bits
  | .freq => o.freq.bits
  | .fine => o.fine.bits
  | .octave => BitVec.ofInt 64 o.octave
  | .drone => unsignedImage o.drone.toNat
  | .lfo => unsignedImage o.lfo.toNat
  | .fm => o.fm.bits

def envImage (v : Env) : EnvReg → Image
  | .attack => v.attack.bits
  | .decay => v.decay.bits
  | .sustain => v.sustain.bits
  | .release => v.release.bits
  | .flags => unsignedImage (v.active.toNat + 2 * v.released.toNat)
  | .nOn => v.nOn
  | .nOff => v.nOff
  | .aOff => v.aOff.bits

def fltImage (flt : Flt) (h : Shp) : FltReg → Image
  | .cutoff => flt.cutoff.bits
  | .res => flt.res.bits
  | .poles => unsignedImage (polesCode flt.poles)
  | .mode => unsignedImage (modeCode flt.mode)
  | .clipEn => unsignedImage h.clipEn.toNat
  | .clipPos => h.clipPos.bits
  | .clipNeg => h.clipNeg.bits
  | .crush => unsignedImage h.crush.val

def chanImage (z : Chan) : ChanReg → Image
  | .bqS1 => z.bq.s1.bits
  | .bqS2 => z.bq.s2.bits
  | .svf0Ic1 => z.svf0.s1.bits
  | .svf0Ic2 => z.svf0.s2.bits
  | .svf1Ic1 => z.svf1.s1.bits
  | .svf1Ic2 => z.svf1.s2.bits
  | .hpS1 => z.hp.s1.bits
  | .hpS2 => z.hp.s2.bits
  | .fprev => z.fprev.bits
  | .outNum => z.outNum.bits
  | .outPcm => z.outPcm.signExtend 64

/-- `RegRead` (rules R7, R63): the image of a register. An empty held-note slot reads all ones. -/
def regImage (s : State) : Reg → Image
  | .osc i r => oscImage s.osc[i] r
  | .gain i k => s.osc[i].gain[k].bits
  | .env r => envImage s.env r
  | .route r => s.route[r].setWidth 64
  | .flt r => fltImage s.flt s.shp r
  | .master => s.master.bits
  | .chan c r => chanImage s.chan[c] r
  | .time => s.T.bits
  | .frameCount => s.N
  | .status => s.status.setWidth 64
  | .heldCount => unsignedImage s.held.length
  | .held k => (s.held[k]?).elim (BitVec.allOnes 64) (·.setWidth 64)
  | .cfgFs => s.cfg.fs.bits
  | .cfgNch => unsignedImage s.cfg.nch
  | .cfgMaxNotes => unsignedImage s.cfg.maxNotes

/-- The value READ finds at an address, none where it is unmapped. -/
def readAt (s : State) (addr : BitVec 16) : Option Image := (regAt s.cfg addr).map (regImage s)

end Sys2Proof.Machine
end

