-- ==== Sys2Proof/Machine/Control.lean ====
section
/-! DEFINITION. NOP, FRAME, TIME_SET, READ, STATUS_CLR and SOFT_RESET (rules R260 to R267). -/

namespace Sys2Proof.Machine

open F64

/-- NOP (rule R260). -/
def execNop (f : Fields) (s : State) : Result :=
  command (do
    noOperands f
    some s) s

/-! ### FRAME (rule R261) -/

/-- The pass for one channel, its sample kept in OUT_NUM and OUT_PCM. -/
def channelPass (F : Fns) (e : F64) (s : State) (c : Fin 4) : State :=
  let r := compose F e s c
  r.2.updChan c fun z => { z with outNum := r.1, outPcm := pcm r.1 }

/-- The passes of a frame, in ascending channel order. -/
def passes (F : Fns) (e : F64) (s : State) : State := (liveChannels s.cfg).foldl (channelPass F e) s

/-- The output frame of a state (rule R262): the channels 0..NCH-1 in order. -/
def outputFrame (s : State) : List Sample :=
  (liveChannels s.cfg).map fun c => ⟨s.chan[c].outPcm, s.chan[c].outNum⟩

/-- `T <- T + DT; N <- (N + 1) mod 2^64`. -/
def advanceTime (s : State) : State := { s with T := add s.T (dt s.cfg), N := s.N + 1#64 }

/-- One frame: the envelope value once, the passes, the emitted frame, the envelope's end of frame, and
time (rule R261). It raises nothing (rule R286). -/
def frame (F : Fns) (s : State) : State :=
  let s1 := passes F (envAmp s.cfg.fs s.env s.N) s
  advanceTime (envEndOfFrame (emitFrame (outputFrame s1) s1))

/-- FRAME (rule R261). -/
def execFrame (f : Fields) (s : State) : Result :=
  command (do
    noOperands f
    some (frame openFns s)) s

/-! ### Time, read-back, status and reset -/

/-- TIME_SET `D` (rule R263). -/
def execTimeSet (f : Fields) (d : F64) (s : State) : Result :=
  commandD (do
    noOperands f
    some { s with T := d }) d s

/-- The effect of READ (rule R264): a response always; an unmapped address answers 0 and raises BAD_ADDR. -/
def readRegister (addr : BitVec 16) (s : State) : State :=
  match readAt s addr with
  | some v => emitResponse v s
  | none => emitResponse 0#64 (raise .badAddr s)

/-- READ `addr` (rule R264). -/
def execRead (f : Fields) (s : State) : Result :=
  command (do
    unused f.a
    unused f.b
    some (readRegister f.imm s)) s

/-- STATUS_CLR `mask` (rule R266). -/
def execStatusClr (f : Fields) (s : State) : Result :=
  command (do
    unused f.a
    unused f.b
    let m ← maskForm f.imm
    some { s with status := clearFlags m s.status }) s

/-- SOFT_RESET (rule R267). -/
def execSoftReset (f : Fields) (s : State) : Result :=
  command (do
    noOperands f
    some (resetRegisters s)) s

end Sys2Proof.Machine
end

