-- ==== Sys2Proof/Machine/Dispatch.lean ====
section
/-! DEFINITION. The dispatch from a command to its meaning: one arm per constructor of Instr. -/

namespace Sys2Proof.Machine

def exec (i : Instr) (s : State) : Host.Outcome State Fault Refusal :=
  match i with
  | .nop f => Sys2Proof.Machine.execNop f s
  | .oscWave f => Sys2Proof.Machine.execOscWave f s
  | .oscVolume f d => Sys2Proof.Machine.execOscVolume f d s
  | .oscGain f d => Sys2Proof.Machine.execOscGain f d s
  | .oscFreq f d => Sys2Proof.Machine.execOscFreq f d s
  | .oscFine f d => Sys2Proof.Machine.execOscFine f d s
  | .oscOctave f => Sys2Proof.Machine.execOscOctave f s
  | .oscDrone f => Sys2Proof.Machine.execOscDrone f s
  | .oscLfo f => Sys2Proof.Machine.execOscLfo f s
  | .oscFm f d => Sys2Proof.Machine.execOscFm f d s
  | .oscAm f d => Sys2Proof.Machine.execOscAm f d s
  | .envAttack f d => Sys2Proof.Machine.execEnvAttack f d s
  | .envDecay f d => Sys2Proof.Machine.execEnvDecay f d s
  | .envSustain f d => Sys2Proof.Machine.execEnvSustain f d s
  | .envRelease f d => Sys2Proof.Machine.execEnvRelease f d s
  | .routeSet f => Sys2Proof.Machine.execRouteSet f s
  | .fltCutoff f d => Sys2Proof.Machine.execFltCutoff f d s
  | .fltRes f d => Sys2Proof.Machine.execFltRes f d s
  | .fltPoles f => Sys2Proof.Machine.execFltPoles f s
  | .fltMode f => Sys2Proof.Machine.execFltMode f s
  | .shpClipEn f => Sys2Proof.Machine.execShpClipEn f s
  | .shpClipPos f d => Sys2Proof.Machine.execShpClipPos f d s
  | .shpClipNeg f d => Sys2Proof.Machine.execShpClipNeg f d s
  | .shpCrush f => Sys2Proof.Machine.execShpCrush f s
  | .mixMaster f d => Sys2Proof.Machine.execMixMaster f d s
  | .noteOn f => Sys2Proof.Machine.execNoteOn f s
  | .noteOff f => Sys2Proof.Machine.execNoteOff f s
  | .frame f => Sys2Proof.Machine.execFrame f s
  | .timeSet f d => Sys2Proof.Machine.execTimeSet f d s
  | .read f => Sys2Proof.Machine.execRead f s
  | .statusClr f => Sys2Proof.Machine.execStatusClr f s
  | .softReset f => Sys2Proof.Machine.execSoftReset f s

end Sys2Proof.Machine
end

