-- ==== Sys2Proof/WellFormed.lean ====
section
/-! DEFINITION. Well-formed commands: those whose fields and data operand the command accepts, by the
table of errors each command can raise (rule R283). A command that is not well-formed raises
BAD_FIELD or NONFINITE and does nothing else. -/

namespace Sys2Proof

namespace Fields

/-- All three fields unused, and so zero. -/
def none (f : Fields) : Bool := f.a == 0 && f.b == 0 && f.imm == 0

/-- A an oscillator index 0..2, the other two fields unused. -/
def oscOnly (f : Fields) : Bool := decide (f.a.toNat ≤ 2) && f.b == 0 && f.imm == 0

/-- A an oscillator index 0..2, B unused, IMM at most `n`. -/
def oscImm (f : Fields) (n : Nat) : Bool :=
  decide (f.a.toNat ≤ 2) && f.b == 0 && decide (f.imm.toNat ≤ n)

/-- A and B unused, IMM at most `n`. -/
def immUpTo (f : Fields) (n : Nat) : Bool := f.a == 0 && f.b == 0 && decide (f.imm.toNat ≤ n)

end Fields

/-- The command is accepted: its unused fields are zero and its operands in their accepted sets
(rules R83, R84, R87, R283). -/
def Instr.fieldsOk : Instr → Bool
  | .nop f | .frame f | .softReset f => f.none
  | .oscWave f => f.oscImm 4
  | .oscVolume f _ | .oscFreq f _ | .oscFine f _ | .oscFm f _ | .oscAm f _ => f.oscOnly
  | .oscGain f _ => decide (f.a.toNat ≤ 2) && f.imm == 0
  | .oscOctave f => f.oscImm 0xFFFF
  | .oscDrone f | .oscLfo f => f.oscImm 1
  | .envAttack f _ | .envDecay f _ | .envSustain f _ | .envRelease f _ => f.none
  | .routeSet f => decide (f.a.toNat ≤ 4) && decide (f.b.toNat ≤ 8) && decide (f.imm.toNat ≤ 1)
  | .fltCutoff f _ | .fltRes f _ | .shpClipPos f _ | .shpClipNeg f _ | .mixMaster f _
  | .timeSet f _ => f.none
  | .fltPoles f => f.immUpTo 0xFFFF && (f.imm == 2 || f.imm == 4)
  | .fltMode f => f.immUpTo 2
  | .shpClipEn f => f.immUpTo 1
  | .shpCrush f => f.immUpTo 24
  | .noteOn f | .noteOff f => f.immUpTo 127
  | .read f => f.immUpTo 0xFFFF
  | .statusClr f => f.immUpTo 0x1F

/-- The data operand of a format-HD command, none for format H (rule R80). -/
def Instr.data : Instr → Option F64
  | .oscVolume _ d | .oscGain _ d | .oscFreq _ d | .oscFine _ d | .oscFm _ d | .oscAm _ d
  | .envAttack _ d | .envDecay _ d | .envSustain _ d | .envRelease _ d
  | .fltCutoff _ d | .fltRes _ d | .shpClipPos _ d | .shpClipNeg _ d | .mixMaster _ d
  | .timeSet _ d => some d
  | .nop _ | .oscWave _ | .oscOctave _ | .oscDrone _ | .oscLfo _ | .routeSet _ | .fltPoles _
  | .fltMode _ | .shpClipEn _ | .shpCrush _ | .noteOn _ | .noteOff _ | .frame _ | .read _
  | .statusClr _ | .softReset _ => Option.none

/-- The data operand, where there is one, is finite (rule R82). -/
def Instr.dataOk (i : Instr) : Bool := i.data.all F64.isFinite

/-- Well-formed: neither BAD_FIELD nor NONFINITE is raised. -/
def Instr.wellFormed (i : Instr) : Bool := i.fieldsOk && i.dataOk

end Sys2Proof
end

