-- ==== Sys2Proof/Decode.lean ====
section
/-! DEFINITION. The command decoder and encoder (rules R80 to R82, R85, R86, R92): total on every list
of words and of bytes, rejecting by name. Field checks are no part of decoding: a word with a defined
opcode always decodes, and the command raises BAD_FIELD when it executes (rules R92, R284). -/

namespace Sys2Proof

/-! ### Header words (rule R81) -/

/-- OP, bits 31:24. -/
def opField (h : Word) : BitVec 8 := h.extractLsb' 24 8

/-- A, B and IMM, bits 23:20, 19:16 and 15:0. -/
def fieldsOf (h : Word) : Fields where
  a := h.extractLsb' 20 4
  b := h.extractLsb' 16 4
  imm := h.extractLsb' 0 16

/-- The header word `(OP << 24) | (A << 20) | (B << 16) | IMM` (rule R85). -/
def header (op : BitVec 8) (f : Fields) : Word := op ++ f.a ++ f.b ++ f.imm

/-! ### The opcode map (rule R85) -/

/-- The two formats of rule R80, each with the command its words make. -/
inductive Format where
  | h (mk : Fields → Instr)
  | hd (mk : Fields → F64 → Instr)

/-- The opcode map of rule R85; every other opcode is illegal (rule R86). -/
def opcodeMap (op : BitVec 8) : Option Format :=
  match op.toNat with
  | 0x00 => some (.h .nop)
  | 0x01 => some (.h .oscWave)
  | 0x02 => some (.hd .oscVolume)
  | 0x03 => some (.hd .oscGain)
  | 0x04 => some (.hd .oscFreq)
  | 0x05 => some (.hd .oscFine)
  | 0x06 => some (.h .oscOctave)
  | 0x07 => some (.h .oscDrone)
  | 0x08 => some (.h .oscLfo)
  | 0x09 => some (.hd .oscFm)
  | 0x0A => some (.hd .oscAm)
  | 0x10 => some (.hd .envAttack)
  | 0x11 => some (.hd .envDecay)
  | 0x12 => some (.hd .envSustain)
  | 0x13 => some (.hd .envRelease)
  | 0x18 => some (.h .routeSet)
  | 0x20 => some (.hd .fltCutoff)
  | 0x21 => some (.hd .fltRes)
  | 0x22 => some (.h .fltPoles)
  | 0x23 => some (.h .fltMode)
  | 0x24 => some (.h .shpClipEn)
  | 0x25 => some (.hd .shpClipPos)
  | 0x26 => some (.hd .shpClipNeg)
  | 0x27 => some (.h .shpCrush)
  | 0x28 => some (.hd .mixMaster)
  | 0x30 => some (.h .noteOn)
  | 0x31 => some (.h .noteOff)
  | 0x40 => some (.h .frame)
  | 0x41 => some (.hd .timeSet)
  | 0x50 => some (.h .read)
  | 0x51 => some (.h .statusClr)
  | 0x7F => some (.h .softReset)
  | _ => none

/-! ### The decoder (rule R92) -/

/-- Why a list of words is no command: `illegalOp` (safe: the machine raises ILLEGAL_OP, rule R86) and
`truncated`, the words of the command have not all arrived (safe: the block waits, rule R70). -/
inductive DecodeError where
  | illegalOp (op : BitVec 8)
  | truncated
deriving DecidableEq, Repr

/-- The data operand `D = {w2, w1}` (rule R82). -/
def dataOf (w1 w2 : Word) : F64 := ⟨w2 ++ w1⟩

/-- The command at the head of a word stream. -/
def decode : List Word → Except DecodeError Instr
  | [] => .error .truncated
  | h :: rest =>
    match opcodeMap (opField h) with
    | none => .error (.illegalOp (opField h))
    | some (.h mk) => .ok (mk (fieldsOf h))
    | some (.hd mk) =>
      match rest with
      | w1 :: w2 :: _ => .ok (mk (fieldsOf h) (dataOf w1 w2))
      | _ => .error .truncated

/-! ### The encoder -/

/-- A command's opcode, fields and data operand: the row of rule R85 read the other way. -/
def Instr.parts : Instr → BitVec 8 × Fields × Option F64
  | .nop f => (0x00#8, f, none)
  | .oscWave f => (0x01#8, f, none)
  | .oscVolume f d => (0x02#8, f, some d)
  | .oscGain f d => (0x03#8, f, some d)
  | .oscFreq f d => (0x04#8, f, some d)
  | .oscFine f d => (0x05#8, f, some d)
  | .oscOctave f => (0x06#8, f, none)
  | .oscDrone f => (0x07#8, f, none)
  | .oscLfo f => (0x08#8, f, none)
  | .oscFm f d => (0x09#8, f, some d)
  | .oscAm f d => (0x0A#8, f, some d)
  | .envAttack f d => (0x10#8, f, some d)
  | .envDecay f d => (0x11#8, f, some d)
  | .envSustain f d => (0x12#8, f, some d)
  | .envRelease f d => (0x13#8, f, some d)
  | .routeSet f => (0x18#8, f, none)
  | .fltCutoff f d => (0x20#8, f, some d)
  | .fltRes f d => (0x21#8, f, some d)
  | .fltPoles f => (0x22#8, f, none)
  | .fltMode f => (0x23#8, f, none)
  | .shpClipEn f => (0x24#8, f, none)
  | .shpClipPos f d => (0x25#8, f, some d)
  | .shpClipNeg f d => (0x26#8, f, some d)
  | .shpCrush f => (0x27#8, f, none)
  | .mixMaster f d => (0x28#8, f, some d)
  | .noteOn f => (0x30#8, f, none)
  | .noteOff f => (0x31#8, f, none)
  | .frame f => (0x40#8, f, none)
  | .timeSet f d => (0x41#8, f, some d)
  | .read f => (0x50#8, f, none)
  | .statusClr f => (0x51#8, f, none)
  | .softReset f => (0x7F#8, f, none)

/-- The two words of a data operand, the less significant first (rules R65, R82). -/
def dataWords (d : F64) : List Word := [d.bits.extractLsb' 0 32, d.bits.extractLsb' 32 32]

/-- The words of a command: its header, then its data operand's two words if it has one (rule R80). -/
def encode (i : Instr) : List Word :=
  header i.parts.1 i.parts.2.1 :: (i.parts.2.2.elim [] dataWords)

/-- The length of a command in words, 1 or 3 (rule R80). -/
def Instr.words (i : Instr) : Nat := (encode i).length

/-! ### Byte transports: least significant byte first (rule R65) -/

/-- The words of a byte transport; bytes short of a whole word make none. -/
def wordsOfBytes : List Byte → List Word
  | b0 :: b1 :: b2 :: b3 :: rest => (b3 ++ b2 ++ b1 ++ b0) :: wordsOfBytes rest
  | _ => []

/-- The bytes of a command word on a byte transport. -/
def bytesOfWord (w : Word) : List Byte := (List.range 4).map fun k => w.extractLsb' (8 * k) 8

/-- The bytes of a READ response on a byte transport. -/
def bytesOfImage (v : Image) : List Byte := (List.range 8).map fun k => v.extractLsb' (8 * k) 8

/-- The command at the head of a byte transport. -/
def decodeBytes (bs : List Byte) : Except DecodeError Instr := decode (wordsOfBytes bs)

/-! ### The opcode table's numbering -/

/-- The 12 bytes (the longest command) of an instruction whose bits are `w`, numbered from the least
significant bit of its first word; the bits above `nbits` are zero. -/
def tableBytes (nbits w : Nat) : List Byte :=
  (List.range 12).map fun k => BitVec.ofNat 8 (w % 2 ^ nbits / 2 ^ (8 * k))

/-- The words of such an instruction, as many as its command has (one for an illegal opcode). -/
def tableWords (nbits w : Nat) : List Word :=
  match decodeBytes (tableBytes nbits w) with
  | .ok i => (wordsOfBytes (tableBytes nbits w)).take i.words
  | .error _ => (wordsOfBytes (tableBytes nbits w)).take 1

/-- The instruction the decoder reads from such bits. -/
def decodeTableWord (nbits w : Nat) : Option Instr :=
  match decodeBytes (tableBytes nbits w) with
  | .ok i => some i
  | .error _ => none

end Sys2Proof
end

