-- ==== Sys2Proof/Machine/Fetch.lean ====
section
/-! DEFINITION. What the block takes next from the host (rules R45, R66, R70, R92, R302). -/

namespace Sys2Proof.Machine

/-- What the pending input holds next; `rest` is the input after it. -/
inductive Fetched where
  /-- Nothing, or a command whose words have not all arrived: the block waits (R70, R294). -/
  | waiting
  /-- A hardware reset; the words of a partly received command before it are discarded (R302). -/
  | hardReset (rest : List HostInput)
  /-- A header word with an illegal opcode, consumed alone (R86). -/
  | illegal (rest : List HostInput)
  /-- A whole command (R92). -/
  | command (i : Instr) (rest : List HostInput)
deriving DecidableEq, Repr

/-- The words that arrive before the next hardware reset. -/
def leadingWords : List HostInput → List Word
  | .word w :: rest => w :: leadingWords rest
  | _ => []

/-- The input from the next hardware reset on. -/
def afterWords : List HostInput → List HostInput
  | .word _ :: rest => afterWords rest
  | rest => rest

/-- The next event. A reset in the middle of a command's words discards them (R302). -/
def fetch (input : List HostInput) : Fetched :=
  match decode (leadingWords input) with
  | .ok i => .command i (input.drop i.words)
  | .error (.illegalOp _) => .illegal (input.drop 1)
  | .error .truncated =>
    match afterWords input with
    | .reset :: rest => .hardReset rest
    | _ => .waiting

end Sys2Proof.Machine
end

