-- ==== Sys2Proof/Machine/Step.lean ====
section
/-! DEFINITION. One step of the block: take the next event of the host's input and execute it (rules R66,
R92). A step of a waiting block changes nothing (log entry 7). -/

namespace Sys2Proof.Machine

/-- One step. A command executes on the state whose input no longer holds its words, so the words are
consumed whatever the outcome (rules R82, R284). -/
def step (s : State) : Host.Outcome State Fault Refusal :=
  match fetch s.input with
  | .waiting => .next s
  | .hardReset rest => .next (resetRegisters { s with input := rest })
  | .illegal rest => .next (raise .illegalOp { s with input := rest })
  | .command i rest => exec i { s with input := rest }

/-- `s` with the words of the instruction `w` (numbered as the opcode table numbers its bits) as the next
words of the command stream (log entry 6). -/
def State.withFetchWord (s : State) (nbits w : Nat) : State :=
  { s with input := (tableWords nbits w).map .word ++ s.input }

end Sys2Proof.Machine
end

