-- ==== Sys2Proof/Safety.lean ====
section
/-! DEFINITION. The terms claims are stated in: legal parameters (rule R5) and the invariant of the
registers (rules R21 to R44). -/

namespace Sys2Proof

open Sys2Proof.Machine

/-- The parameter record is within the ranges of rule R5. -/
structure Params.Legal (p : Params) : Prop where
  /-- FS is positive and finite. -/
  fs_finite : p.fs.isFinite = true
  fs_pos : F64.lt F64.zero p.fs = true
  /-- `FC_MAX < FS/2`. -/
  fs_nyquist : F64.lt Config.fcMax (F64.div p.fs F64.two) = true
  nch_pos : 1 ≤ p.nch
  nch_le : p.nch ≤ 4
  maxNotes_pos : 1 ≤ p.maxNotes
  maxNotes_le : p.maxNotes ≤ 16
  /-- SCALE has the indices 0..107. -/
  scale_length : p.scale.length = 108
  cutOct_finite : p.cutOct.isFinite = true

/-- The registers an oscillator's setters keep in range (rules R22, R24 to R26, R30). -/
structure OscOk (o : Osc) : Prop where
  volume : o.volume.isFinite = true
  freq : o.freq.isFinite = true
  fine : o.fine.isFinite = true
  octave_lo : -4 ≤ o.octave
  octave_hi : o.octave ≤ 4
  gain : ∀ k : Fin 4, o.gain[k].isFinite = true

/-- The envelope parameters are in the ranges of rule R31, and the captured level is an amplitude
(rules R32, R142). -/
structure EnvOk (v : Env) : Prop where
  attack_finite : v.attack.isFinite = true
  attack_nonneg : F64.le F64.zero v.attack = true
  decay_finite : v.decay.isFinite = true
  decay_nonneg : F64.le F64.zero v.decay = true
  release_finite : v.release.isFinite = true
  release_nonneg : F64.le F64.zero v.release = true
  sustain_lo : F64.le F64.zero v.sustain = true
  sustain_hi : F64.le v.sustain F64.one = true
  aOff_lo : F64.le F64.zero v.aOff = true
  aOff_hi : F64.le v.aOff F64.one = true

/-- The filter and shaper registers are in the ranges of rules R35 and R36. -/
structure FltOk (flt : Flt) (h : Shp) : Prop where
  cutoff : flt.cutoff.isFinite = true
  res_lo : F64.le Config.qMin flt.res = true
  res_hi : F64.le flt.res Config.qMax = true
  clipPos : h.clipPos.isFinite = true
  clipNeg : h.clipNeg.isFinite = true

/-- The held-notes set holds distinct ids within its capacity (rule R33). -/
structure HeldOk (p : Params) (held : List (BitVec 7)) : Prop where
  distinct : held.Nodup
  capacity : held.length ≤ p.maxNotes

/-- A PCM sample is in -32767..32767 (rule R40): -32768 never occurs. -/
def PcmOk (v : BitVec 16) : Prop := -32767 ≤ v.toInt ∧ v.toInt ≤ 32767

/-- The register invariant: legal parameters, and every register in the range its rule gives. The
channels beyond NCH, which the block does not have, are untouched (log entry 11). -/
structure Inv (s : State) : Prop where
  params : s.cfg.Legal
  osc : ∀ i : Fin 3, OscOk s.osc[i]
  env : EnvOk s.env
  flt : FltOk s.flt s.shp
  master : s.master.isFinite = true
  held : HeldOk s.cfg s.held
  pcm : ∀ c : Fin 4, PcmOk s.chan[c].outPcm
  absent : ∀ c : Fin 4, s.cfg.nch ≤ c.val → s.chan[c] = Reset.chan

/-- The channel `c` exists in this block. -/
def Live (s : State) (c : Fin 4) : Prop := c.val < s.cfg.nch

end Sys2Proof
end

