-- ==== Sys2Proof/Certificates/Slice0/Obligations.lean ====
section
/-! DEFINITION. The statements for the provers, from the spec's numbered rules. A command's statement has
the words it decodes from, its effect on every state for every accepted operand (the whole next state, so
its frame too), and its refused operands. -/

open Sys2Proof Sys2Proof.Machine

namespace Sys2Proof.Claims

/-! ### Shared shapes of statements -/

/-- A format-H command: its opcode and any A, B, IMM decode to it, with every field (rules R80, R81). -/
def IsH (op : BitVec 8) (mk : Fields → Instr) : Prop :=
  ∀ (a b : BitVec 4) (imm : BitVec 16) (rest : List Word),
    decode ((op ++ a ++ b ++ imm) :: rest) = .ok (mk ⟨a, b, imm⟩)

/-- A format-HD command: its opcode, any fields and any two data words decode to it with `D = {w2, w1}`
(rules R80 to R82). -/
def IsHD (op : BitVec 8) (mk : Fields → F64 → Instr) : Prop :=
  ∀ (a b : BitVec 4) (imm : BitVec 16) (w1 w2 : Word) (rest : List Word),
    decode ((op ++ a ++ b ++ imm) :: w1 :: w2 :: rest) = .ok (mk ⟨a, b, imm⟩ ⟨w2 ++ w1⟩)

/-- The state a command leaves that raised BAD_FIELD: STATUS bit 1 set, nothing else (rule R282). -/
def badField (s : State) : State := { s with status := s.status ||| 0x02#5 }

/-- The state a command leaves that raised NONFINITE: STATUS bit 2 set, nothing else (rule R282). -/
def nonfinite (s : State) : State := { s with status := s.status ||| 0x04#5 }

/-- The header fields all zero. -/
def noFields : Fields := ⟨0#4, 0#4, 0#16⟩

/-- A setter of Num registers of the oscillator A: BAD_FIELD where A > 2, B or IMM is nonzero, then
NONFINITE where D is not finite, else the oscillator is rewritten and nothing else. -/
def OscNumSetter (op : BitVec 8) (mk : Fields → F64 → Instr) (upd : F64 → Osc → Osc) : Prop :=
  IsHD op mk ∧
  (∀ (s : State) (f : Fields) (i : Fin 3) (d : F64),
    f.a.toNat = i.val → f.b = 0#4 → f.imm = 0#16 → d.isFinite = true →
    exec (mk f d) s = .next { s with osc := s.osc.set i (upd d s.osc[i]) }) ∧
  (∀ (s : State) (f : Fields) (d : F64),
    2 < f.a.toNat ∨ f.b ≠ 0#4 ∨ f.imm ≠ 0#16 → exec (mk f d) s = .next (badField s)) ∧
  (∀ (s : State) (f : Fields) (d : F64),
    f.a.toNat ≤ 2 → f.b = 0#4 → f.imm = 0#16 → d.isFinite = false →
    exec (mk f d) s = .next (nonfinite s))

/-- A setter without index or immediate operand: BAD_FIELD where A, B or IMM is nonzero, then NONFINITE
where D is not finite, else the state is rewritten by `upd`. -/
def PlainNumSetter (op : BitVec 8) (mk : Fields → F64 → Instr) (upd : F64 → State → State) : Prop :=
  IsHD op mk ∧
  (∀ (s : State) (d : F64), d.isFinite = true → exec (mk noFields d) s = .next (upd d s)) ∧
  (∀ (s : State) (f : Fields) (d : F64), f ≠ noFields → exec (mk f d) s = .next (badField s)) ∧
  (∀ (s : State) (d : F64), d.isFinite = false → exec (mk noFields d) s = .next (nonfinite s))

/-- A setter of one flag of the oscillator A by IMM. -/
def OscFlagSetter (op : BitVec 8) (mk : Fields → Instr) (upd : Bool → Osc → Osc) : Prop :=
  IsH op mk ∧
  (∀ (s : State) (f : Fields) (i : Fin 3) (v : Bool),
    f.a.toNat = i.val → f.b = 0#4 → f.imm.toNat = v.toNat →
    exec (mk f) s = .next { s with osc := s.osc.set i (upd v s.osc[i]) }) ∧
  (∀ (s : State) (f : Fields),
    2 < f.a.toNat ∨ f.b ≠ 0#4 ∨ 1 < f.imm.toNat → exec (mk f) s = .next (badField s))

/-- A setter with the immediate operand alone: the values `accepted` relates to a register value are
written by `upd`, every other value and a nonzero A or B raise BAD_FIELD. -/
def PlainImmSetter {α : Type} (op : BitVec 8) (mk : Fields → Instr) (accepted : Nat → α → Prop)
    (upd : α → State → State) : Prop :=
  IsH op mk ∧
  (∀ (s : State) (f : Fields) (v : α),
    f.a = 0#4 → f.b = 0#4 → accepted f.imm.toNat v → exec (mk f) s = .next (upd v s)) ∧
  (∀ (s : State) (f : Fields),
    f.a ≠ 0#4 ∨ f.b ≠ 0#4 ∨ (∀ v, ¬accepted f.imm.toNat v) → exec (mk f) s = .next (badField s))

/-- Only the commands of these opcodes change what `get` reads. -/
def WrittenOnlyBy {α : Type} (get : State → α) (ops : List (BitVec 8)) : Prop :=
  ∀ (i : Instr) (s t : State), exec i s = .next t → i.parts.1 ∉ ops → get t = get s

/-- The opcodes of format HD (rule R85). -/
def hdOps : List Nat :=
  [0x02, 0x03, 0x04, 0x05, 0x09, 0x0A, 0x10, 0x11, 0x12, 0x13, 0x20, 0x21, 0x25, 0x26, 0x28, 0x41]

/-- The illegal opcodes (rule R86). -/
def illegalOp (op : Nat) : Prop :=
  (0x0B ≤ op ∧ op ≤ 0x0F) ∨ (0x14 ≤ op ∧ op ≤ 0x17) ∨ (0x19 ≤ op ∧ op ≤ 0x1F) ∨
  (0x29 ≤ op ∧ op ≤ 0x2F) ∨ (0x32 ≤ op ∧ op ≤ 0x3F) ∨ (0x42 ≤ op ∧ op ≤ 0x4F) ∨
  (0x52 ≤ op ∧ op ≤ 0x7E) ∨ 0x80 ≤ op

/-- The words of a command that has not wholly arrived: nothing, or a format-HD header with at most one
data word (rule R70). -/
def Cut (ws : List Word) : Prop :=
  ws = [] ∨ ∃ h : Word, (h.extractLsb' 24 8).toNat ∈ hdOps ∧ (ws = [h] ∨ ∃ w, ws = [h, w])

/-- The registers of this block at their reset values, its environment as in `s` but for the input. -/
def afterReset (s : State) (input : List HostInput) : State :=
  { State.resetWith s.cfg with
    input := input, draws := s.draws, frames := s.frames, responses := s.responses }

/-- The register exists in a block with these parameters (rule R62). -/
def Exists (p : Params) : Reg → Prop
  | .chan c _ => c.val < p.nch
  | .held k => k < p.maxNotes
  | .osc _ _ | .gain _ _ | .env _ | .route _ | .flt _ | .master | .time | .frameCount | .status
  | .heldCount | .cfgFs | .cfgNch | .cfgMaxNotes => True

/-- The matrix cells no stage reads: rows Filter and Envelope of Filter In, row Filter of Filter Cutoff
(rule R34). -/
def deadCells : List (Nat × Nat) := [(3, 6), (4, 6), (3, 7)]

/-- The value is in [lo, hi]. -/
def Within (x lo hi : F64) : Prop := F64.le lo x = true ∧ F64.le x hi = true

/-- The state before the pass of channel `c`: the passes of the channels before it are done, their value and
its conversion kept in OUT_NUM and OUT_PCM (rule R261). -/
def beforePass (e : F64) (s : State) : Nat → State
  | 0 => s
  | c + 1 =>
    if h : c < 4 then
      let r := compose openFns e (beforePass e s c) ⟨c, h⟩
      { r.2 with chan := r.2.chan.set c { r.2.chan[c] with outNum := r.1, outPcm := pcm r.1 } }
    else beforePass e s c

/-- `d` where it is in [lo, hi], else the end of the range it lies beyond. -/
def limited (lo hi d : F64) : F64 :=
  if F64.lt hi d then hi else if F64.le lo d then d else lo

/-- `r` is the exact ratio `n / d`, in units of 2^-1074, rounded to nearest with ties to even: an infinity from
the midpoint above the largest finite value on, else a finite value no finite value is nearer than, with an
even fraction where another is as near; its sign is the ratio's where the ratio is not 0. -/
def CorrectlyRounded (r : F64) (n : Int) (d : Nat) : Prop :=
  (r.isInf = true ↔ (2 ^ 54 - 1) * 2 ^ 2044 * (d : Int) ≤ |n|) ∧
  (r.isInf = false → r.isFinite = true) ∧
  (n < 0 → r.isNeg = true) ∧ (0 < n → r.isNeg = false) ∧
  (r.isFinite = true → ∀ y : F64, y.isFinite = true →
    |r.units * d - n| ≤ |y.units * d - n| ∧
    (|y.units * d - n| = |r.units * d - n| → y.units ≠ r.units → r.frac % 2 = 0))

/-- From 0.0, in list order: for each source whose cell in the column `col` is set, the accumulator plus
`scale v`, with `v` the source's value. -/
def addRouted (route : Vector (BitVec 9) 5) (col : Nat) (scale : F64 → F64) (vals : List (Fin 5 × F64)) :
    F64 :=
  vals.foldl (fun a sv => if (route[sv.1]).getLsbD col then F64.add a (scale sv.2) else a) F64.zero

/-- From `start`, in list order: for each source whose cell in the column `col` is set, the accumulator
times the source's value. -/
def mulRouted (route : Vector (BitVec 9) 5) (col : Nat) (start : F64) (vals : List (Fin 5 × F64)) : F64 :=
  vals.foldl (fun a sv => if (route[sv.1]).getLsbD col then F64.mul a sv.2 else a) start

/-- The filter instance of FLT.MODE on the input `x` at the cutoff `fc`: its output and the channel's cells
after it (rule R186). -/
def modeOutput (F : Fns) (fs : F64) (flt : Flt) (fc x : F64) (z : Chan) : F64 × Chan :=
  match flt.mode with
  | .svfLp => svfCascade F fs flt fc x z
  | .bqLp => ((bqStep (bqCoef F fs .lp fc flt.res) z.bq x).1,
      { z with bq := (bqStep (bqCoef F fs .lp fc flt.res) z.bq x).2 })
  | .bqHp => ((bqStep (bqCoef F fs .hp fc flt.res) z.bq x).1,
      { z with bq := (bqStep (bqCoef F fs .hp fc flt.res) z.bq x).2 })

/-- Soft-clip where CLIP_EN is set, then bit-crush where CRUSH is not 0 (rule R189). -/
def shaped (F : Fns) (h : Shp) (y : F64) : F64 :=
  if h.crush = 0 then (if h.clipEn = true then softClip F h y else y)
  else bitCrush F h.crush (if h.clipEn = true then softClip F h y else y)

/-- What keeps the block silent: legal parameters, a finite master volume, no cell of the mixer column set,
zeros in the output high-pass cells. -/
structure Quiet (s : State) : Prop where
  params : s.cfg.Legal
  master : s.master.isFinite = true
  column : ∀ src : Fin 5, (s.route[src]).getLsbD 8 = false
  cells : ∀ c : Fin 4, s.chan[c].hp.s1.isZero = true ∧ s.chan[c].hp.s2.isZero = true

/-- The command is ROUTE_SET of a mixer cell (opcode 0x18, B = 8) with the flag 1. -/
def setsMixer (i : Instr) : Prop :=
  i.parts.1 = 0x18#8 ∧ i.parts.2.1.b = 8#4 ∧ i.parts.2.1.imm = 1#16

end Sys2Proof.Claims

open Sys2Proof.Claims

/-! ### Encoding and decoding -/

/-- Every command with every field and data operand decodes from its own words, whatever follows them;
and the words a command was decoded from are its encoding, one word or three (rules R80 to R82, R85, R92). -/
def Obligations.DecodeAndEncodeAgree : Prop :=
  (∀ (i : Instr) (rest : List Word), decode (encode i ++ rest) = .ok i) ∧
  (∀ (ws : List Word) (i : Instr), decode ws = .ok i →
    encode i = ws.take i.words ∧ (i.words = 1 ∨ i.words = 3) ∧ i.words ≤ ws.length)

/-- The opcodes of rule R86 are the illegal ones; a step that meets one sets ILLEGAL_OP, does nothing
else, and consumes one word, so that the words after it are decoded as headers. -/
def Obligations.IllegalOpcodesRaiseAndConsumeOneWord : Prop :=
  (∀ (h : Word) (rest : List Word),
    decode (h :: rest) = .error (.illegalOp (h.extractLsb' 24 8)) ↔
      illegalOp (h.extractLsb' 24 8).toNat) ∧
  (∀ (s : State) (h : Word) (rest : List HostInput),
    s.input = .word h :: rest → illegalOp (h.extractLsb' 24 8).toNat →
    step s = .next { s with input := rest, status := s.status ||| 0x01#5 })

/-- Words written out from the spec's encodings decode to the commands they stand for. -/
def Obligations.SpecWordsDecode : Prop :=
  decode [0x01100002#32] = .ok (.oscWave ⟨1#4, 0#4, 2#16⟩) ∧
  decode [0x04000000#32, 0x00000000#32, 0x407B8000#32] =
    .ok (.oscFreq noFields ⟨0x407B800000000000#64⟩) ∧
  decode [0x0610FFFF#32] = .ok (.oscOctave ⟨1#4, 0#4, 0xFFFF#16⟩) ∧
  decode [0x13000000#32, 0x9999999A#32, 0x3FB99999#32] =
    .ok (.envRelease noFields ⟨0x3FB999999999999A#64⟩) ∧
  decode [0x18430001#32] = .ok (.routeSet ⟨4#4, 3#4, 1#16⟩) ∧
  decode [0x22000004#32] = .ok (.fltPoles ⟨0#4, 0#4, 4#16⟩) ∧
  decode [0x30000039#32] = .ok (.noteOn ⟨0#4, 0#4, 57#16⟩) ∧
  decode [0x50000509#32] = .ok (.read ⟨0#4, 0#4, 0x0509#16⟩)

/-- A byte transport carries each word least significant byte first: the bytes of a command's words
decode to it (rule R65). -/
def Obligations.ByteTransportIsLittleEndian : Prop :=
  (∀ w : Word, bytesOfWord w =
    [w.extractLsb' 0 8, w.extractLsb' 8 8, w.extractLsb' 16 8, w.extractLsb' 24 8]) ∧
  (∀ ws : List Word, wordsOfBytes (ws.flatMap bytesOfWord) = ws) ∧
  (∀ i : Instr, decodeBytes ((encode i).flatMap bytesOfWord) = .ok i)

/-! ### Steps -/

/-- When the words that arrived begin with a command, a step is that command's execution on the state
whose input has moved past its words (rules R66, R92; the host's words held in State are the model's form,
log entry 6). -/
def Obligations.StepExecutesTheDecodedCommand : Prop :=
  (∀ (s : State) (i : Instr), decode (leadingWords s.input) = .ok i →
    step s = exec i { s with input := s.input.drop i.words }) ∧
  (∀ (s : State) (i : Instr) (rest : List HostInput), s.input = (encode i).map .word ++ rest →
    step s = exec i { s with input := rest })

/-- A stream that ends, or ends inside a 3-word command, leaves the block waiting: nothing changes
(rules R70, R294; that a waiting step answers the same state is the model's form, log entry 7). -/
def Obligations.CutStreamLeavesTheBlockWaiting : Prop :=
  ∀ (s : State) (ws : List Word), Cut ws → s.input = ws.map .word → step s = .next s

/-- A hardware reset discards the words of a partly received command and sets every register to its reset
value; the parameters, the emitted output and the draw stream are not touched (rules R301, R302; the
reset as an event of the input is the model's form, log entry 6). -/
def Obligations.HardwareResetDiscardsAPartialCommand : Prop :=
  ∀ (s : State) (ws : List Word) (rest : List HostInput), Cut ws →
    s.input = ws.map .word ++ .reset :: rest → step s = .next (afterReset s rest)

/-- Nothing stops the block: every command and every step answers a next state (rules R13, R281). -/
def Obligations.NothingStopsTheBlock : Prop :=
  (∀ (i : Instr) (s : State), ∃ t, exec i s = .next t) ∧ (∀ s : State, ∃ t, step s = .next t)

/-- A step never takes back what was emitted, never changes a parameter, never rewinds the draw stream,
and only consumes input (rules R5, R49, R302; the streams held in State are the model's form, log entries
4, 6 and 8). -/
def Obligations.StepsOnlyExtendTheOutput : Prop :=
  ∀ s t : State, step s = .next t →
    t.cfg = s.cfg ∧ s.frames <+: t.frames ∧ s.responses <+: t.responses ∧ s.draws ≤ t.draws ∧
      t.input <:+ s.input

/-! ### Errors -/

/-- A command with a refused field raises BAD_FIELD alone, whatever its data operand; one with good
fields and a data operand that is not finite raises NONFINITE alone; a well-formed one raises neither
(rules R282 to R284: the table of rule R283 is `Instr.fieldsOk`). -/
def Obligations.RefusedCommandsRaiseOneErrorInOrder : Prop :=
  (∀ (i : Instr) (s : State), i.fieldsOk = false → exec i s = .next (badField s)) ∧
  (∀ (i : Instr) (s : State), i.fieldsOk = true → i.dataOk = false →
    exec i s = .next (nonfinite s)) ∧
  (∀ (i : Instr) (s t : State), i.wellFormed = true → exec i s = .next t →
    s.status &&& 0x06#5 = 0#5 → t.status &&& 0x06#5 = 0#5)

/-- The data operand is `{w2, w1}`, and both data words are consumed whatever the outcome: after a step
the stream stands three words on, in a refused command too (rule R82). -/
def Obligations.DataWordsAreConsumedWhateverTheOutcome : Prop :=
  ∀ (s t : State) (h w1 w2 : Word) (rest : List HostInput),
    (h.extractLsb' 24 8).toNat ∈ hdOps →
    s.input = .word h :: .word w1 :: .word w2 :: rest → step s = .next t →
    t.input = rest ∧
      ∃ i : Instr, decode [h, w1, w2] = .ok i ∧ i.data = some ⟨w2 ++ w1⟩ ∧
        step s = exec i { s with input := rest } ∧
        (i.fieldsOk = true → F64.isFinite ⟨w2 ++ w1⟩ = false →
          t = nonfinite { s with input := rest })

/-- A STATUS bit stays set until STATUS_CLR or a reset (rule R44). -/
def Obligations.StatusBitsAreSticky : Prop :=
  ∀ (i : Instr) (s t : State) (k : Nat), exec i s = .next t →
    i.parts.1 ∉ [0x51#8, 0x7F#8] → s.status.getLsbD k = true → t.status.getLsbD k = true

/-! ### Who writes what -/

/-- Every register is written only by the commands its rule names, and by SOFT_RESET (rules R21 to R42;
10_state.md). Of STATUS (rules R44, R282), a bit is cleared only by STATUS_CLR and SOFT_RESET; no command
sets bit 0, a refused field alone sets bit 1, a data operand that is not finite bit 2, NOTE_ON alone bit 3
and READ alone bit 4. -/
def Obligations.RegistersHaveOnlyTheirWriters : Prop :=
  (∀ j : Fin 3,
    WrittenOnlyBy (fun s => s.osc[j].wave) [0x7F#8, 0x01#8] ∧
    WrittenOnlyBy (fun s => s.osc[j].volume) [0x7F#8, 0x02#8] ∧
    WrittenOnlyBy (fun s => s.osc[j].amp) [0x7F#8, 0x02#8, 0x0A#8, 0x40#8] ∧
    WrittenOnlyBy (fun s => s.osc[j].freq) [0x7F#8, 0x04#8] ∧
    WrittenOnlyBy (fun s => s.osc[j].fine) [0x7F#8, 0x05#8] ∧
    WrittenOnlyBy (fun s => s.osc[j].octave) [0x7F#8, 0x06#8] ∧
    WrittenOnlyBy (fun s => s.osc[j].drone) [0x7F#8, 0x07#8] ∧
    WrittenOnlyBy (fun s => s.osc[j].lfo) [0x7F#8, 0x08#8] ∧
    WrittenOnlyBy (fun s => s.osc[j].fm) [0x7F#8, 0x09#8, 0x40#8] ∧
    WrittenOnlyBy (fun s => s.osc[j].gain) [0x7F#8, 0x03#8]) ∧
  WrittenOnlyBy (fun s => s.env.attack) [0x7F#8, 0x10#8] ∧
  WrittenOnlyBy (fun s => s.env.decay) [0x7F#8, 0x11#8] ∧
  WrittenOnlyBy (fun s => s.env.sustain) [0x7F#8, 0x12#8] ∧
  WrittenOnlyBy (fun s => s.env.release) [0x7F#8, 0x13#8] ∧
  WrittenOnlyBy (fun s => s.env.active) [0x7F#8, 0x30#8, 0x40#8] ∧
  WrittenOnlyBy (fun s => s.env.released) [0x7F#8, 0x30#8, 0x31#8] ∧
  WrittenOnlyBy (fun s => s.env.nOn) [0x7F#8, 0x30#8] ∧
  WrittenOnlyBy (fun s => (s.env.nOff, s.env.aOff)) [0x7F#8, 0x31#8] ∧
  WrittenOnlyBy (fun s => s.held) [0x7F#8, 0x30#8, 0x31#8] ∧
  WrittenOnlyBy (fun s => s.route) [0x7F#8, 0x18#8] ∧
  WrittenOnlyBy (fun s => s.flt.cutoff) [0x7F#8, 0x20#8] ∧
  WrittenOnlyBy (fun s => s.flt.res) [0x7F#8, 0x21#8] ∧
  WrittenOnlyBy (fun s => s.flt.poles) [0x7F#8, 0x22#8] ∧
  WrittenOnlyBy (fun s => s.flt.mode) [0x7F#8, 0x23#8] ∧
  WrittenOnlyBy (fun s => s.shp.clipEn) [0x7F#8, 0x24#8] ∧
  WrittenOnlyBy (fun s => s.shp.clipPos) [0x7F#8, 0x25#8] ∧
  WrittenOnlyBy (fun s => s.shp.clipNeg) [0x7F#8, 0x26#8] ∧
  WrittenOnlyBy (fun s => s.shp.crush) [0x7F#8, 0x27#8] ∧
  WrittenOnlyBy (fun s => s.master) [0x7F#8, 0x28#8] ∧
  WrittenOnlyBy (fun s => (s.chan, s.draws, s.frames)) [0x7F#8, 0x40#8] ∧
  WrittenOnlyBy (fun s => s.T) [0x7F#8, 0x40#8, 0x41#8] ∧
  WrittenOnlyBy (fun s => s.N) [0x7F#8, 0x40#8] ∧
  WrittenOnlyBy (fun s => s.responses) [0x50#8] ∧
  (∀ (i : Instr) (s t : State) (k : Nat), exec i s = .next t →
    (s.status.getLsbD k = true → t.status.getLsbD k = false → i.parts.1 = 0x51#8 ∨ i.parts.1 = 0x7F#8) ∧
    (s.status.getLsbD k = false → t.status.getLsbD k = true →
      (k = 1 ∧ i.fieldsOk = false) ∨ (k = 2 ∧ i.fieldsOk = true ∧ i.dataOk = false) ∨
        (k = 3 ∧ i.parts.1 = 0x30#8) ∨ (k = 4 ∧ i.parts.1 = 0x50#8))) ∧
  WrittenOnlyBy (fun s => (s.cfg, s.input)) []

/-! ### Reset -/

/-- The reset values of rule R300 and of the summary table of 10_state.md section 11, for any
parameters; the parameters stay as they are (rule R49). -/
def Obligations.ResetValues : Prop :=
  ∀ p : Params,
    (∀ i : Fin 3, (State.resetWith p).osc[i] =
      { wave := .sine, volume := ⟨0x3FF0000000000000#64⟩, amp := ⟨0x3FF0000000000000#64⟩,
        freq := ⟨0x407B800000000000#64⟩, fine := ⟨0#64⟩, octave := 0, drone := false, lfo := false,
        fm := ⟨0#64⟩, gain := #v[⟨0x3FF0000000000000#64⟩, ⟨0x3FF0000000000000#64⟩,
          ⟨0x3FF0000000000000#64⟩, ⟨0x3FF0000000000000#64⟩] }) ∧
    (State.resetWith p).env =
      { attack := ⟨0#64⟩, decay := ⟨0#64⟩, sustain := ⟨0x3FF0000000000000#64⟩, release := ⟨0#64⟩,
        active := false, released := false, nOn := 0#64, nOff := 0#64, aOff := ⟨0#64⟩ } ∧
    (State.resetWith p).held = [] ∧
    (∀ k : Fin 5, (State.resetWith p).route[k] = 0#9) ∧
    (State.resetWith p).flt =
      { cutoff := ⟨0x408F400000000000#64⟩, res := ⟨0x3FE6A09E667F3BCD#64⟩, poles := .two,
        mode := .svfLp } ∧
    (State.resetWith p).shp =
      { clipEn := false, clipPos := ⟨0x3FF0000000000000#64⟩, clipNeg := ⟨0x3FF0000000000000#64⟩,
        crush := 0 } ∧
    (State.resetWith p).master = ⟨0x3FF0000000000000#64⟩ ∧
    (∀ c : Fin 4, (State.resetWith p).chan[c] =
      { bq := ⟨⟨0#64⟩, ⟨0#64⟩⟩, svf0 := ⟨⟨0#64⟩, ⟨0#64⟩⟩, svf1 := ⟨⟨0#64⟩, ⟨0#64⟩⟩,
        hp := ⟨⟨0#64⟩, ⟨0#64⟩⟩, fprev := ⟨0#64⟩, outNum := ⟨0#64⟩, outPcm := 0#16 }) ∧
    (State.resetWith p).T = ⟨0#64⟩ ∧ (State.resetWith p).N = 0#64 ∧
    (State.resetWith p).status = 0#5 ∧ (State.resetWith p).cfg = p

/-- SOFT_RESET (rule R267): every register takes its reset value, STATUS included; what was emitted, the
draw stream, the parameters and the words still to come are kept; a nonzero field raises BAD_FIELD and
resets nothing. -/
def Obligations.SoftResetResetsTheRegisters : Prop :=
  IsH 0x7F#8 .softReset ∧
  (∀ s : State, exec (.softReset noFields) s = .next (afterReset s s.input)) ∧
  (∀ (s : State) (f : Fields), f ≠ noFields → exec (.softReset f) s = .next (badField s))

/-- The reset state with the reference parameters meets the register invariant (rules R5, R300; the
reference parameters in the reset state are the model's choice, log entries 1 and 2). -/
def Obligations.ResetMeetsTheInvariant : Prop := Inv State.reset

/-- Every step keeps the register invariant: the parameters stay legal, the captured envelope level in
[0.0, 1.0] (rules R32, R142), the held notes distinct and
within MAX_NOTES, every register in the range its rule gives, no PCM sample is -32768, and the channels
beyond NCH are never touched (rules R5, R22 to R40; those channels are the model's, log entry 11). -/
def Obligations.EveryStepKeepsTheInvariant : Prop :=
  ∀ s t : State, Inv s → step s = .next t → Inv t

/-! ### Oscillator setters -/

/-- OSC_WAVE (rule R110). -/
def Obligations.OscWaveSetsTheWaveform : Prop :=
  IsH 0x01#8 .oscWave ∧
  (∀ (s : State) (f : Fields) (i : Fin 3) (w : Wave),
    f.a.toNat = i.val → f.b = 0#4 → f.imm.toNat = waveCode w →
    exec (.oscWave f) s = .next { s with osc := s.osc.set i { s.osc[i] with wave := w } }) ∧
  (∀ (s : State) (f : Fields), 2 < f.a.toNat ∨ f.b ≠ 0#4 ∨ 4 < f.imm.toNat →
    exec (.oscWave f) s = .next (badField s))

/-- OSC_VOLUME (rule R111) writes VOLUME and AMP; OSC_FREQ, OSC_FINE, OSC_FM and OSC_AM (rules R113, R114,
R118, R119) write one register each. -/
def Obligations.OscNumSettersWriteTheirRegisters : Prop :=
  OscNumSetter 0x02#8 .oscVolume (fun d o => { o with volume := d, amp := d }) ∧
  OscNumSetter 0x04#8 .oscFreq (fun d o => { o with freq := d }) ∧
  OscNumSetter 0x05#8 .oscFine (fun d o => { o with fine := d }) ∧
  OscNumSetter 0x09#8 .oscFm (fun d o => { o with fm := d }) ∧
  OscNumSetter 0x0A#8 .oscAm (fun d o => { o with amp := d })

/-- OSC_GAIN (rule R112): the channel index B is clamped to 3 and raises nothing. -/
def Obligations.OscGainClampsTheChannel : Prop :=
  IsHD 0x03#8 .oscGain ∧
  (∀ (s : State) (f : Fields) (i : Fin 3) (k : Fin 4) (d : F64),
    f.a.toNat = i.val → f.imm = 0#16 → k.val = min f.b.toNat 3 → d.isFinite = true →
    exec (.oscGain f d) s =
      .next { s with osc := s.osc.set i { s.osc[i] with gain := s.osc[i].gain.set k d } }) ∧
  (∀ (s : State) (f : Fields) (d : F64), 2 < f.a.toNat ∨ f.imm ≠ 0#16 →
    exec (.oscGain f d) s = .next (badField s)) ∧
  (∀ (s : State) (f : Fields) (d : F64), f.a.toNat ≤ 2 → f.imm = 0#16 → d.isFinite = false →
    exec (.oscGain f d) s = .next (nonfinite s))

/-- OSC_OCTAVE (rule R115): the 16-bit signed immediate, clamped to -4..4, raising nothing. -/
def Obligations.OscOctaveClamps : Prop :=
  IsH 0x06#8 .oscOctave ∧
  (∀ (s : State) (f : Fields) (i : Fin 3), f.a.toNat = i.val → f.b = 0#4 →
    ∃ v : Int, exec (.oscOctave f) s =
        .next { s with osc := s.osc.set i { s.osc[i] with octave := v } } ∧
      (f.imm.toInt < -4 → v = -4) ∧ (4 < f.imm.toInt → v = 4) ∧
      (-4 ≤ f.imm.toInt → f.imm.toInt ≤ 4 → v = f.imm.toInt)) ∧
  (∀ (s : State) (f : Fields), 2 < f.a.toNat ∨ f.b ≠ 0#4 →
    exec (.oscOctave f) s = .next (badField s))

/-- OSC_DRONE and OSC_LFO (rules R116, R117). -/
def Obligations.OscFlagSetters : Prop :=
  OscFlagSetter 0x07#8 .oscDrone (fun v o => { o with drone := v }) ∧
  OscFlagSetter 0x08#8 .oscLfo (fun v o => { o with lfo := v })

/-! ### Envelope -/

/-- ENV_ATTACK, ENV_DECAY and ENV_RELEASE (rules R150, R151, R153): a value below 0.0 stores 0.0.
ENV_SUSTAIN (rule R152) stores `clamp(D, 0.0, 1.0)`. -/
def Obligations.EnvSettersClamp : Prop :=
  PlainNumSetter 0x10#8 .envAttack (fun d s =>
    { s with env := { s.env with attack := if F64.le ⟨0#64⟩ d then d else ⟨0#64⟩ } }) ∧
  PlainNumSetter 0x11#8 .envDecay (fun d s =>
    { s with env := { s.env with decay := if F64.le ⟨0#64⟩ d then d else ⟨0#64⟩ } }) ∧
  PlainNumSetter 0x12#8 .envSustain (fun d s =>
    { s with env := { s.env with sustain := limited ⟨0#64⟩ ⟨0x3FF0000000000000#64⟩ d } }) ∧
  PlainNumSetter 0x13#8 .envRelease (fun d s =>
    { s with env := { s.env with release := if F64.le ⟨0#64⟩ d then d else ⟨0#64⟩ } })

/-- NOTE_ON (rules R144, R160): a held note changes nothing; a new note in a full set raises NOTE_FULL; a
new note joins the end of HELD, and the first one starts the envelope at the current `N`. -/
def Obligations.NoteOnAppendsAndStartsTheEnvelope : Prop :=
  IsH 0x30#8 .noteOn ∧
  (∀ (s : State) (f : Fields) (n : BitVec 7),
    f.a = 0#4 → f.b = 0#4 → f.imm.toNat = n.toNat →
    (n ∈ s.held → exec (.noteOn f) s = .next s) ∧
    (n ∉ s.held → s.held.length = s.cfg.maxNotes →
      exec (.noteOn f) s = .next { s with status := s.status ||| 0x08#5 }) ∧
    (n ∉ s.held → s.held.length ≠ s.cfg.maxNotes → s.held ≠ [] →
      exec (.noteOn f) s = .next { s with held := s.held ++ [n] }) ∧
    (n ∉ s.held → s.held.length ≠ s.cfg.maxNotes → s.held = [] →
      exec (.noteOn f) s = .next { s with
        held := [n], env := { s.env with nOn := s.N, active := true, released := false } })) ∧
  (∀ (s : State) (f : Fields), f.a ≠ 0#4 ∨ f.b ≠ 0#4 ∨ 127 < f.imm.toNat →
    exec (.noteOn f) s = .next (badField s))

/-- NOTE_OFF (rules R145, R161) on a set of distinct notes: an unknown note changes nothing; a held one is
removed and the order of the others kept; the last one stops the envelope, which captures its level and
the current `N`. -/
def Obligations.NoteOffRemovesAndStopsTheEnvelope : Prop :=
  IsH 0x31#8 .noteOff ∧
  (∀ (s : State) (f : Fields) (n : BitVec 7),
    f.a = 0#4 → f.b = 0#4 → f.imm.toNat = n.toNat → s.held.Nodup →
    (n ∉ s.held → exec (.noteOff f) s = .next s) ∧
    (n ∈ s.held → s.held ≠ [n] →
      exec (.noteOff f) s = .next { s with held := s.held.filter (· ≠ n) }) ∧
    (s.held = [n] →
      exec (.noteOff f) s = .next { s with
        held := [],
        env := { s.env with
          aOff := envAmp s.cfg.fs s.env s.N, nOff := s.N, released := true } })) ∧
  (∀ (s : State) (f : Fields), f.a ≠ 0#4 ∨ f.b ≠ 0#4 ∨ 127 < f.imm.toNat →
    exec (.noteOff f) s = .next (badField s))

/-- The envelope's amplitude is the case list of rule R142 on the times of rule R141. -/
def Obligations.EnvelopeAmplitudeFollowsItsCases : Prop :=
  ∀ (fs : F64) (v : Env) (n : BitVec 64) (e r aS dS rS : F64),
    e = F64.div (F64.ofNat (n - v.nOn).toNat) fs → r = F64.div (F64.ofNat (n - v.nOff).toNat) fs →
    aS = F64.div v.attack ⟨0x408F400000000000#64⟩ →
    dS = F64.div v.decay ⟨0x408F400000000000#64⟩ →
    rS = F64.div v.release ⟨0x408F400000000000#64⟩ →
    envAmp fs v n =
      if v.active = false then F64.zero
      else if v.released = true then
        if F64.le rS r then F64.zero else F64.mul v.aOff (F64.sub F64.one (F64.div r rS))
      else if F64.lt e aS then F64.div e aS
      else if F64.eq v.sustain F64.zero = false then
        if F64.lt (F64.sub e aS) dS then
          F64.sub F64.one (F64.mul (F64.sub F64.one v.sustain) (F64.div (F64.sub e aS) dS))
        else v.sustain
      else if F64.le rS (F64.sub e aS) then F64.zero
      else F64.mul F64.one (F64.sub F64.one (F64.div (F64.sub e aS) rS))

/-- `env_done` is the condition of rule R143, and where it holds the amplitude is 0.0. -/
def Obligations.CompletedEnvelopeIsSilent : Prop :=
  ∀ (fs : F64) (v : Env) (n : BitVec 64) (e r aS rS : F64),
    e = F64.div (F64.ofNat (n - v.nOn).toNat) fs → r = F64.div (F64.ofNat (n - v.nOff).toNat) fs →
    aS = F64.div v.attack ⟨0x408F400000000000#64⟩ →
    rS = F64.div v.release ⟨0x408F400000000000#64⟩ →
    (envDone fs v n = true ↔
      v.active = true ∧
        ((v.released = true ∧ F64.le rS r = true) ∨
          (v.released = false ∧ F64.le aS e = true ∧ F64.eq v.sustain F64.zero = true ∧
            F64.le rS (F64.sub e aS) = true))) ∧
    (envDone fs v n = true → envAmp fs v n = F64.zero)

/-- With the registers in their legal ranges, the captured level in [0.0, 1.0] among them, the envelope's
amplitude is in [0.0, 1.0] at every frame count, roundings included (rule R142). -/
def Obligations.EnvelopeAmplitudeStaysInUnitRange : Prop :=
  ∀ (p : Params) (v : Env) (n : BitVec 64), p.Legal → EnvOk v →
    Within (envAmp p.fs v n) F64.zero F64.one

/-- The envelope's testable properties (rule R147) between commands: the level never falls during the attack,
equals SUSTAIN once the decay is over, never rises during the release, and is 0.0 before the first start. -/
def Obligations.EnvelopeRampsAreMonotone : Prop :=
  ∀ (p : Params) (v : Env) (n m : BitVec 64), p.Legal → EnvOk v →
    (v.active = true → v.released = false → (n - v.nOn).toNat ≤ (m - v.nOn).toNat →
      F64.lt (v.e p.fs m) (seconds v.attack) = true →
      F64.le (envAmp p.fs v n) (envAmp p.fs v m) = true) ∧
    (v.active = true → v.released = false → F64.eq v.sustain F64.zero = false →
      F64.le (seconds v.attack) (v.e p.fs n) = true →
      F64.le (seconds v.decay) (F64.sub (v.e p.fs n) (seconds v.attack)) = true →
      envAmp p.fs v n = v.sustain) ∧
    (v.active = true → v.released = true →
      (n - v.nOff).toNat ≤ (m - v.nOff).toNat →
      F64.le (envAmp p.fs v m) (envAmp p.fs v n) = true) ∧
    (v.active = false → envAmp p.fs v n = F64.zero)

/-! ### Filters, shapers, mixer, time -/

/-- FLT_CUTOFF, SHP_CLIP_POS, SHP_CLIP_NEG, MIX_MASTER and TIME_SET (rules R195, R200, R201, R240, R263)
store D unchanged in one register; FLT_RES (rule R196) stores `clamp(D, 0.5, 20.0)`. -/
def Obligations.PlainNumSettersWriteOneRegister : Prop :=
  PlainNumSetter 0x20#8 .fltCutoff (fun d s => { s with flt := { s.flt with cutoff := d } }) ∧
  PlainNumSetter 0x21#8 .fltRes (fun d s =>
    { s with flt := { s.flt with
        res := limited ⟨0x3FE0000000000000#64⟩ ⟨0x4034000000000000#64⟩ d } }) ∧
  PlainNumSetter 0x25#8 .shpClipPos (fun d s => { s with shp := { s.shp with clipPos := d } }) ∧
  PlainNumSetter 0x26#8 .shpClipNeg (fun d s => { s with shp := { s.shp with clipNeg := d } }) ∧
  PlainNumSetter 0x28#8 .mixMaster (fun d s => { s with master := d }) ∧
  PlainNumSetter 0x41#8 .timeSet (fun d s => { s with T := d })

/-- FLT_POLES, FLT_MODE and SHP_CRUSH (rules R197, R198, R202). -/
def Obligations.FilterImmediateSetters : Prop :=
  PlainImmSetter 0x22#8 .fltPoles (fun n v => n = polesCode v)
    (fun v s => { s with flt := { s.flt with poles := v } }) ∧
  PlainImmSetter 0x23#8 .fltMode (fun n v => n = modeCode v)
    (fun v s => { s with flt := { s.flt with mode := v } }) ∧
  PlainImmSetter 0x27#8 .shpCrush (fun n (v : Fin 25) => n = v.val)
    (fun v s => { s with shp := { s.shp with crush := v } })

/-- SHP_CLIP_EN (rule R199). -/
def Obligations.ShpClipEnSetsTheFlag : Prop :=
  PlainImmSetter 0x24#8 .shpClipEn (fun n (v : Bool) => n = v.toNat)
    (fun v s => { s with shp := { s.shp with clipEn := v } })

/-! ### The matrix -/

/-- ROUTE_SET (rule R222): setting the mixer bit leaves the row with that bit alone; otherwise the bit of
the route takes the flag and the other bits stay. Nothing but the row changes. -/
def Obligations.RouteSetWritesOneCell : Prop :=
  IsH 0x18#8 .routeSet ∧
  (∀ (s : State) (f : Fields) (src : Fin 5) (v : Bool),
    f.a.toNat = src.val → f.b.toNat ≤ 8 → f.imm.toNat = v.toNat →
    ∃ row : BitVec 9,
      exec (.routeSet f) s = .next { s with route := s.route.set src row } ∧
      (f.b.toNat = 8 → v = true → row = 0x100#9) ∧
      (f.b.toNat ≠ 8 ∨ v = false →
        ∀ k < 9, row.getLsbD k = if k = f.b.toNat then v else (s.route[src]).getLsbD k)) ∧
  (∀ (s : State) (f : Fields), 4 < f.a.toNat ∨ 8 < f.b.toNat ∨ 1 < f.imm.toNat →
    exec (.routeSet f) s = .next (badField s))

/-- Selecting Mixer for a source's row clears all other bits of that row and sets only the mixer bit,
whatever the row held (rule R223). -/
def Obligations.SelectingMixerClearsTheRow : Prop :=
  ∀ (s : State) (src : Fin 5) (f : Fields),
    f.a.toNat = src.val → f.b = 8#4 → f.imm = 1#16 →
    ∃ t, exec (.routeSet f) s = .next t ∧ t.route[src] = 0x100#9 ∧
      ∀ k : Fin 5, k ≠ src → t.route[k] = s.route[k]

/-! ### Control commands -/

/-- NOP (rule R260): no register changes; a nonzero field raises BAD_FIELD. -/
def Obligations.NopChangesNothing : Prop :=
  IsH 0x00#8 .nop ∧
  (∀ s : State, exec (.nop noFields) s = .next s) ∧
  (∀ (s : State) (f : Fields), f ≠ noFields → exec (.nop f) s = .next (badField s))

/-- STATUS_CLR (rule R266): the bits of the mask are cleared and no other; a mask above 0x1F or a nonzero
A or B clears nothing and raises BAD_FIELD. -/
def Obligations.StatusClrClearsTheMask : Prop :=
  IsH 0x51#8 .statusClr ∧
  (∀ (s : State) (f : Fields), f.a = 0#4 → f.b = 0#4 → f.imm.toNat ≤ 0x1F →
    ∃ st : BitVec 5, exec (.statusClr f) s = .next { s with status := st } ∧
      ∀ k < 5, st.getLsbD k = (s.status.getLsbD k && !f.imm.getLsbD k)) ∧
  (∀ (s : State) (f : Fields), f.a ≠ 0#4 ∨ f.b ≠ 0#4 ∨ 0x1F < f.imm.toNat →
    exec (.statusClr f) s = .next (badField s))

/-- READ of a mapped address appends the register's image to the responses and changes nothing else; a
nonzero A or B raises BAD_FIELD and answers nothing (rules R71, R264). -/
def Obligations.ReadAnswersTheRegister : Prop :=
  IsH 0x50#8 .read ∧
  (∀ (s : State) (f : Fields) (r : Reg), f.a = 0#4 → f.b = 0#4 →
    Exists s.cfg r → s.cfg.Legal → f.imm.toNat = r.addr →
    exec (.read f) s = .next { s with responses := s.responses ++ [regImage s r] }) ∧
  (∀ (s : State) (f : Fields), f.a ≠ 0#4 ∨ f.b ≠ 0#4 → exec (.read f) s = .next (badField s))

/-- A READ of an unmapped address answers 0, sets BAD_ADDR and changes no other state (rule R64). -/
def Obligations.ReadOfUnmappedAddressAnswersZero : Prop :=
  ∀ (s : State) (f : Fields), f.a = 0#4 → f.b = 0#4 → s.cfg.Legal →
    (∀ r : Reg, Exists s.cfg r → f.imm.toNat ≠ r.addr) →
    exec (.read f) s = .next { s with
      responses := s.responses ++ [0#64], status := s.status ||| 0x10#5 }

/-- The address map names every register once: each register that exists is found at its address and
nowhere else, and no address finds a register that does not exist. The addresses are those of the table of
rule R62, its blocks of consecutive registers in the table's order. -/
def Obligations.AddressMapNamesEachRegisterOnce : Prop :=
  (∀ (p : Params) (a : BitVec 16) (r : Reg), p.Legal →
    (regAt p a = some r ↔ Exists p r ∧ a.toNat = r.addr)) ∧
  (∀ i : Fin 3,
    [Reg.osc i .wave, .osc i .volume, .osc i .amp, .osc i .freq, .osc i .fine, .osc i .octave,
      .osc i .drone, .osc i .lfo, .osc i .fm].map Reg.addr =
        (List.range 9).map (fun n => 0x0000 + 0x20 * i.val + n) ∧
    ∀ k : Fin 4, (Reg.gain i k).addr = 0x0010 + 0x20 * i.val + k.val) ∧
  [Reg.env .attack, .env .decay, .env .sustain, .env .release, .env .flags, .env .nOn, .env .nOff,
    .env .aOff].map Reg.addr = (List.range 8).map (0x0100 + ·) ∧
  (∀ k : Fin 5, (Reg.route k).addr = 0x0200 + k.val) ∧
  [Reg.flt .cutoff, .flt .res, .flt .poles, .flt .mode, .flt .clipEn, .flt .clipPos, .flt .clipNeg,
    .flt .crush].map Reg.addr = (List.range 8).map (0x0300 + ·) ∧
  Reg.master.addr = 0x0400 ∧
  (∀ c : Fin 4,
    [Reg.chan c .bqS1, .chan c .bqS2, .chan c .svf0Ic1, .chan c .svf0Ic2, .chan c .svf1Ic1,
      .chan c .svf1Ic2, .chan c .hpS1, .chan c .hpS2, .chan c .fprev, .chan c .outNum,
      .chan c .outPcm].map Reg.addr = (List.range 11).map (fun n => 0x0500 + 0x10 * c.val + n)) ∧
  [Reg.time, .frameCount, .status, .heldCount].map Reg.addr = [0x0600, 0x0601, 0x0602, 0x0603] ∧
  (∀ k : Nat, (Reg.held k).addr = 0x0610 + k) ∧
  [Reg.cfgFs, .cfgNch, .cfgMaxNotes].map Reg.addr = [0x0700, 0x0701, 0x0702]

/-- The images of rule R63, one clause for each register of rule R62: a Num its bit pattern, an unsigned value
zero-extended, a signed one sign-extended, an empty held-note slot all ones. -/
def Obligations.RegisterImagesFollowTheirType : Prop :=
  ∀ s : State, Inv s →
    (∀ i : Fin 3,
      (regImage s (.osc i .wave)).toNat = waveCode s.osc[i].wave ∧
      regImage s (.osc i .volume) = s.osc[i].volume.bits ∧
      regImage s (.osc i .amp) = s.osc[i].amp.bits ∧
      regImage s (.osc i .freq) = s.osc[i].freq.bits ∧
      regImage s (.osc i .fine) = s.osc[i].fine.bits ∧
      (regImage s (.osc i .octave)).toInt = s.osc[i].octave ∧
      (regImage s (.osc i .drone)).toNat = s.osc[i].drone.toNat ∧
      (regImage s (.osc i .lfo)).toNat = s.osc[i].lfo.toNat ∧
      regImage s (.osc i .fm) = s.osc[i].fm.bits ∧
      ∀ k : Fin 4, regImage s (.gain i k) = (s.osc[i].gain[k]).bits) ∧
    regImage s (.env .attack) = s.env.attack.bits ∧
    regImage s (.env .decay) = s.env.decay.bits ∧
    regImage s (.env .sustain) = s.env.sustain.bits ∧
    regImage s (.env .release) = s.env.release.bits ∧
    (∀ k : Nat, (regImage s (.env .flags)).getLsbD k =
      if k = 0 then s.env.active else if k = 1 then s.env.released else false) ∧
    regImage s (.env .nOn) = s.env.nOn ∧
    regImage s (.env .nOff) = s.env.nOff ∧
    regImage s (.env .aOff) = s.env.aOff.bits ∧
    (∀ k : Fin 5, (regImage s (.route k)).toNat = (s.route[k]).toNat) ∧
    regImage s (.flt .cutoff) = s.flt.cutoff.bits ∧
    regImage s (.flt .res) = s.flt.res.bits ∧
    (regImage s (.flt .poles)).toNat = polesCode s.flt.poles ∧
    (regImage s (.flt .mode)).toNat = modeCode s.flt.mode ∧
    (regImage s (.flt .clipEn)).toNat = s.shp.clipEn.toNat ∧
    regImage s (.flt .clipPos) = s.shp.clipPos.bits ∧
    regImage s (.flt .clipNeg) = s.shp.clipNeg.bits ∧
    (regImage s (.flt .crush)).toNat = s.shp.crush.val ∧
    regImage s .master = s.master.bits ∧
    (∀ c : Fin 4,
      regImage s (.chan c .bqS1) = s.chan[c].bq.s1.bits ∧
      regImage s (.chan c .bqS2) = s.chan[c].bq.s2.bits ∧
      regImage s (.chan c .svf0Ic1) = s.chan[c].svf0.s1.bits ∧
      regImage s (.chan c .svf0Ic2) = s.chan[c].svf0.s2.bits ∧
      regImage s (.chan c .svf1Ic1) = s.chan[c].svf1.s1.bits ∧
      regImage s (.chan c .svf1Ic2) = s.chan[c].svf1.s2.bits ∧
      regImage s (.chan c .hpS1) = s.chan[c].hp.s1.bits ∧
      regImage s (.chan c .hpS2) = s.chan[c].hp.s2.bits ∧
      regImage s (.chan c .fprev) = s.chan[c].fprev.bits ∧
      regImage s (.chan c .outNum) = s.chan[c].outNum.bits ∧
      (regImage s (.chan c .outPcm)).toInt = s.chan[c].outPcm.toInt) ∧
    regImage s .time = s.T.bits ∧
    regImage s .frameCount = s.N ∧
    (regImage s .status).toNat = s.status.toNat ∧
    (regImage s .heldCount).toNat = s.held.length ∧
    (∀ (k : Nat) (n : BitVec 7), s.held[k]? = some n → (regImage s (.held k)).toNat = n.toNat) ∧
    (∀ k : Nat, s.held.length ≤ k → regImage s (.held k) = 0xFFFFFFFFFFFFFFFF#64) ∧
    regImage s .cfgFs = s.cfg.fs.bits ∧
    (regImage s .cfgNch).toNat = s.cfg.nch ∧
    (regImage s .cfgMaxNotes).toNat = s.cfg.maxNotes

/-! ### FRAME -/

/-- FRAME (rules R261, R262): the channels are passed in ascending order, each on the state the one
before left, with one envelope value; OUT_NUM is the pass's value and OUT_PCM its conversion; one frame
of NCH pairs is emitted; a completed envelope loses ACTIVE; T advances by `1.0/FS` and N by 1 modulo 2^64;
everything else is as the last pass left it. A nonzero field raises BAD_FIELD. -/
def Obligations.FrameRunsThePassesAndAdvancesTime : Prop :=
  IsH 0x40#8 .frame ∧
  (∀ (s u : State) (e : F64), s.cfg.nch ≤ 4 → e = envAmp s.cfg.fs s.env s.N →
    u = beforePass e s s.cfg.nch →
    ∃ v : List Sample,
      exec (.frame noFields) s = .next { u with
        frames := s.frames ++ [v]
        env := { s.env with active := s.env.active && !envDone s.cfg.fs s.env s.N }
        T := F64.add s.T (F64.div F64.one s.cfg.fs)
        N := s.N + 1#64 } ∧
      v.length = s.cfg.nch ∧
      ∀ c : Fin 4, c.val < s.cfg.nch →
        v[c.val]? = some ⟨u.chan[c].outPcm, u.chan[c].outNum⟩ ∧
        u.chan[c].outPcm = pcm u.chan[c].outNum ∧
        u.chan[c].outNum = (compose openFns e (beforePass e s c.val) c).1) ∧
  (∀ (s : State) (f : Fields), f ≠ noFields → exec (.frame f) s = .next (badField s))

/-- What FRAME leaves unchanged (rules R38, R46, R146, R230, R232, R233, R286): every configuration
register, STATUS, the held notes, the responses and the parameters; of an oscillator all but FM and AMP,
and FM and AMP too where no cell of its pitch or amplitude column is set; of the envelope all but ACTIVE,
which only a completed envelope loses; the channels beyond NCH, which are the model's (log entry 11); the
cells of the filter instances that do not run. -/
def Obligations.FrameLeavesTheRestUnchanged : Prop :=
  ∀ s : State, ∃ t : State, exec (.frame noFields) s = .next t ∧
    t.held = s.held ∧ t.route = s.route ∧ t.flt = s.flt ∧ t.shp = s.shp ∧ t.master = s.master ∧
    t.status = s.status ∧ t.cfg = s.cfg ∧ t.input = s.input ∧ t.responses = s.responses ∧
    t.env = { s.env with active := s.env.active && !envDone s.cfg.fs s.env s.N } ∧
    (∀ j : Fin 3,
      t.osc[j] = { s.osc[j] with fm := t.osc[j].fm, amp := t.osc[j].amp } ∧
      ((∀ src : Fin 5, (s.route[src]).getLsbD j.val = false) → t.osc[j].fm = s.osc[j].fm) ∧
      ((∀ src : Fin 5, (s.route[src]).getLsbD (3 + j.val) = false) →
        t.osc[j].amp = s.osc[j].amp)) ∧
    (∀ c : Fin 4,
      (s.cfg.nch ≤ c.val → t.chan[c] = s.chan[c]) ∧
      (s.flt.mode = .svfLp → t.chan[c].bq = s.chan[c].bq) ∧
      (s.flt.mode ≠ .svfLp → t.chan[c].svf0 = s.chan[c].svf0 ∧ t.chan[c].svf1 = s.chan[c].svf1) ∧
      (s.flt.poles = .two → t.chan[c].svf1 = s.chan[c].svf1))

/-- State that is stored and never read by the datapath has no effect on a frame: with other values in a
fine-tune register, an LFO flag or the matrix cells no stage reads, FRAME leaves the same state but for
those (rules R25, R28, R34, R114, R117, R234, R235). -/
def Obligations.InertStateHasNoEffectOnAFrame : Prop :=
  (∀ (s t : State) (j : Fin 3) (v : F64) (b : Bool),
    exec (.frame noFields) s = .next t →
    exec (.frame noFields)
        { s with osc := s.osc.set j { s.osc[j] with fine := v, lfo := b } } =
      .next { t with osc := t.osc.set j { t.osc[j] with fine := v, lfo := b } }) ∧
  (∀ (s t : State) (r : Vector (BitVec 9) 5),
    (∀ (src : Fin 5) (k : Nat), (src.val, k) ∉ deadCells →
      (r[src]).getLsbD k = (s.route[src]).getLsbD k) →
    exec (.frame noFields) s = .next t →
    exec (.frame noFields) { s with route := r } = .next { t with route := r })

/-- Silence until a route to the mixer is set (rule R300), for all open functions with the properties of R10.
While no cell of the mixer column is set and the output high-pass cells hold zeros, as after reset, FRAME
gives PCM 0 on every channel; and every step, whatever its command but a ROUTE_SET that sets a mixer cell,
keeps the block so, and every sample it emits is 0. -/
def Obligations.SilenceUntilAMixerRouteIsSet : Prop :=
  (∀ s : State, Quiet s →
    ∃ t, exec (.frame noFields) s = .next t ∧
      ∀ c : Fin 4, c.val < s.cfg.nch →
        t.chan[c].outPcm = 0#16 ∧ t.chan[c].outNum.isZero = true) ∧
  (∀ s t : State, Quiet s → step s = .next t →
    (∀ i : Instr, decode (leadingWords s.input) = .ok i → ¬setsMixer i) →
    Quiet t ∧ ∃ new : List (List Sample), t.frames = s.frames ++ new ∧
      ∀ v ∈ new, ∀ x ∈ v, x.pcm = 0#16 ∧ x.num.isZero = true) ∧
  (∀ p : Params, p.Legal → Quiet (State.resetWith p))

/-! ### The pass -/

/-- Steps 1 to 3 of a pass (rules R224, R230 to R233). Step 1: the oscillators 0, 1, 2, each after the draws of
the ones before; a drone plays its own frequency and takes no envelope, any other is its note sum. Then the
pitch targets 0, 1, 2, then the amplitude targets 0, 1, 2, each on what the one before left. -/
def Obligations.PassRunsItsStagesInOrder : Prop :=
  ∀ (F : Fns) (s : State) (e : F64) (c : Fin 4) (x : Ctx) (raw : Fin 3 → Nat → F64 × Nat) (p : Pass),
    x = ctxOf s e c →
    (∀ (i : Fin 3) (k : Nat),
      (s.osc[i].drone = true → raw i k = play F s.cfg.sqTie s.osc[i] s.osc[i].freq s.T c k) ∧
      (s.osc[i].drone = false → raw i k = noteSum F x s.osc[i] k)) →
    p = { osc := s.osc
          out := #v[(raw 0 s.draws).1, (raw 1 (raw 0 s.draws).2).1,
            (raw 2 (raw 1 (raw 0 s.draws).2).2).1]
          draws := (raw 2 (raw 1 (raw 0 s.draws).2).2).2 } →
    voices F s e c =
      ampTarget F x (ampTarget F x (ampTarget F x
        (pitchTarget F x (pitchTarget F x (pitchTarget F x p 0) 1) 2) 0) 1) 2 ∧
    (compose F e s c).2.osc = (voices F s e c).osc ∧
    (compose F e s c).2.draws = (voices F s e c).draws

/-- The note frequency lookup (rule R125) and the sum of step 1 over the held notes (rule R231): the scale
index is the note id plus 12 an octave; a note whose index is outside 0..107 is skipped and disturbs no
other note, the draw stream included; a played note joins the sum after those before it in HELD order,
times the envelope; with no note held the sum is 0.0. -/
def Obligations.HeldNotesSumInOrderAndSkipOutOfRange : Prop :=
  (∀ (p : Params) (o : Osc) (n : BitVec 7),
    (∀ k : Nat, (k : Int) = n.toNat + 12 * o.octave → k ≤ 107 → noteFreq p o n = p.scale[k]?) ∧
    ((n.toNat : Int) + 12 * o.octave < 0 ∨ 107 < (n.toNat : Int) + 12 * o.octave →
      noteFreq p o n = none)) ∧
  (∀ (F : Fns) (x : Ctx) (o : Osc) (k : Nat) (before later : List (BitVec 7)) (n : BitVec 7),
    noteFreq x.cfg o n = none →
    noteSum F { x with held := before ++ n :: later } o k =
      noteSum F { x with held := before ++ later } o k) ∧
  (∀ (F : Fns) (x : Ctx) (o : Osc) (k : Nat) (before : List (BitVec 7)) (n : BitVec 7) (f : F64),
    noteFreq x.cfg o n = some f →
    ∀ (acc : F64) (k' : Nat), noteSum F { x with held := before } o k = (acc, k') →
      noteSum F { x with held := before ++ [n] } o k =
        (F64.add acc (F64.mul x.e (play F x.cfg.sqTie o f x.t x.c k').1),
          (play F x.cfg.sqTie o f x.t x.c k').2)) ∧
  (∀ (F : Fns) (x : Ctx) (o : Osc) (k : Nat), noteSum F { x with held := [] } o k = (F64.zero, k))

/-- A non-drone oscillator's output in a pass is its step-1 output, whatever routes target it (rules
R232, R233, R305); with no note held it is 0.0 in every stage, whatever the envelope value (rule R316). -/
def Obligations.NonDroneOutputsAreTheirNoteSums : Prop :=
  ∀ (F : Fns) (s : State) (e : F64) (c : Fin 4) (j : Fin 3), s.osc[j].drone = false →
    (voices F s e c).out[j] =
        (step1 F (ctxOf s e c)
          { osc := s.osc, out := #v[F64.zero, F64.zero, F64.zero], draws := s.draws }).out[j] ∧
      (s.held = [] → (voices F s e c).out[j] = F64.zero)

/-- The pitch and amplitude stages of an active column (rules R232, R233): the target's FM is the sum from
0.0, its AMP the product from VOLUME, over the routed sources in ascending order; a drone is evaluated again
with it, after the draws before; no other oscillator register and no other output changes; an inactive column
changes nothing. -/
def Obligations.ModulationStagesAccumulateAndReEvaluate : Prop :=
  ∀ (F : Fns) (x : Ctx) (p : Pass) (j : Fin 3) (vals : List (Fin 5 × F64)) (fm am : F64),
    vals = ([(0, p.out[0]), (1, p.out[1]), (2, p.out[2]), (3, x.fprev), (4, x.e)] : List (Fin 5 × F64)) →
    fm = addRouted x.route j.val
      (fun v => F64.mul (F64.mul ⟨0x3FD0000000000000#64⟩ p.osc[j].freq) v) vals →
    am = mulRouted x.route (3 + j.val) p.osc[j].volume vals →
    (columnActive x.route j.val = true →
      (pitchTarget F x p j).osc = p.osc.set j { p.osc[j] with fm := fm } ∧
      (p.osc[j].drone = false →
        (pitchTarget F x p j).out = p.out ∧ (pitchTarget F x p j).draws = p.draws) ∧
      (p.osc[j].drone = true →
        ∀ r : F64 × Nat,
          r = play F x.cfg.sqTie { p.osc[j] with fm := fm } p.osc[j].freq x.t x.c p.draws →
          (pitchTarget F x p j).out = p.out.set j r.1 ∧ (pitchTarget F x p j).draws = r.2)) ∧
    (columnActive x.route (3 + j.val) = true →
      (ampTarget F x p j).osc = p.osc.set j { p.osc[j] with amp := am } ∧
      (p.osc[j].drone = false →
        (ampTarget F x p j).out = p.out ∧ (ampTarget F x p j).draws = p.draws) ∧
      (p.osc[j].drone = true →
        ∀ r : F64 × Nat,
          r = play F x.cfg.sqTie { p.osc[j] with amp := am } p.osc[j].freq x.t x.c p.draws →
          (ampTarget F x p j).out = p.out.set j r.1 ∧ (ampTarget F x p j).draws = r.2)) ∧
    (columnActive x.route j.val = false → pitchTarget F x p j = p) ∧
    (columnActive x.route (3 + j.val) = false → ampTarget F x p j = p)

/-- Steps 4 to 7 of a pass (rules R234 to R237). The filter input sums the oscillator rows alone. The cutoff,
where a cell of the rows 0, 1, 2 and 4 of its column is set, is CUTOFF times FEXP2 of CUT_OCT times the sum of
those rows, else CUTOFF, limited to [30.0, 22000.0] with 30.0 for a NaN. FLT.MODE selects the filter (rule
R186), the shapers follow (rule R189), and FPREV is their value. The mixer sums all rows, the Filter row with
this pass's value, and scales by the master volume; the output high-pass is the biquad of 30.0 Hz and
`1/sqrt(2)` on the channel's own cells. Of the channel only the cells of the filters that ran and FPREV
change, and no other channel does. -/
def Obligations.FilterAndMixerStagesReadTheirColumns : Prop :=
  ∀ (F : Fns) (e : F64) (s : State) (c : Fin 4) (out : Vector F64 3) (fin fc y mix : F64)
    (r : F64 × Chan) (h : F64 × Cells),
    out = (voices F s e c).out →
    fin = addRouted s.route 6 (fun v => v) [(0, out[0]), (1, out[1]), (2, out[2])] →
    fc = limited ⟨0x403E000000000000#64⟩ ⟨0x40D57C0000000000#64⟩
      (if (s.route[0]).getLsbD 7 || (s.route[1]).getLsbD 7 || (s.route[2]).getLsbD 7 ||
          (s.route[4]).getLsbD 7 then
        F64.mul s.flt.cutoff (F.fexp2 (F64.mul s.cfg.cutOct
          (addRouted s.route 7 (fun v => v) [(0, out[0]), (1, out[1]), (2, out[2]), (4, e)])))
      else s.flt.cutoff) →
    r = modeOutput F s.cfg.fs s.flt fc fin s.chan[c] → y = shaped F s.shp r.1 →
    mix = F64.mul (addRouted s.route 8 (fun v => v)
        [(0, out[0]), (1, out[1]), (2, out[2]), (3, y), (4, e)]) s.master →
    h = bqStep (bqCoef F s.cfg.fs .hp ⟨0x403E000000000000#64⟩ ⟨0x3FE6A09E667F3BCD#64⟩)
      s.chan[c].hp mix →
    (compose F e s c).1 = h.1 ∧
    (compose F e s c).2.chan = s.chan.set c { r.2 with fprev := y, hp := h.2 }

/-- The filter equations: the biquad coefficients (rule R181) and update (rule R183), the state-variable
filter (rule R184) and its cascade (rule R185), every operation in the order the rules write. -/
def Obligations.FilterEquations : Prop :=
  (∀ (F : Fns) (fs fc q w0 cw a0 : F64),
    w0 = F64.div (F64.mul ⟨0x401921FB54442D18#64⟩ fc) fs → cw = F.fcos w0 →
    a0 = F64.add F64.one (F64.div (F.fsin w0) (F64.mul F64.two q)) →
    ∀ kind : BqKind,
      (bqCoef F fs kind fc q).a1 = F64.div (F64.mul ⟨0xC000000000000000#64⟩ cw) a0 ∧
      (bqCoef F fs kind fc q).a2 =
        F64.div (F64.sub F64.one (F64.div (F.fsin w0) (F64.mul F64.two q))) a0 ∧
      (bqCoef F fs kind fc q).b2 = (bqCoef F fs kind fc q).b0 ∧
      (kind = .lp →
        (bqCoef F fs kind fc q).b0 = F64.div (F64.div (F64.sub F64.one cw) F64.two) a0 ∧
        (bqCoef F fs kind fc q).b1 = F64.div (F64.sub F64.one cw) a0) ∧
      (kind = .hp →
        (bqCoef F fs kind fc q).b0 = F64.div (F64.div (F64.add F64.one cw) F64.two) a0 ∧
        (bqCoef F fs kind fc q).b1 = F64.div (F64.neg (F64.add F64.one cw)) a0)) ∧
  (∀ (k : Coef) (z : Cells) (x y : F64), y = F64.add (F64.mul k.b0 x) z.s1 →
    bqStep k z x = (y,
      ⟨F64.add (F64.sub (F64.mul k.b1 x) (F64.mul k.a1 y)) z.s2,
        F64.sub (F64.mul k.b2 x) (F64.mul k.a2 y)⟩)) ∧
  (∀ (F : Fns) (fs fc q g a1 a2 v1 v2 x : F64) (z : Cells),
    g = F.ftan (F64.div (F64.mul ⟨0x400921FB54442D18#64⟩ fc) fs) →
    a1 = F64.div F64.one (F64.add F64.one (F64.mul g (F64.add g (F64.div F64.one q)))) →
    a2 = F64.mul g a1 →
    v1 = F64.add (F64.mul a1 z.s1) (F64.mul a2 (F64.sub x z.s2)) →
    v2 = F64.add z.s2 (F64.add (F64.mul a2 z.s1) (F64.mul (F64.mul g a2) (F64.sub x z.s2))) →
    svfStep F fs fc q z x =
      (v2, ⟨F64.sub (F64.mul F64.two v1) z.s1, F64.sub (F64.mul F64.two v2) z.s2⟩)) ∧
  (∀ (F : Fns) (fs fc x : F64) (flt : Flt) (z : Chan) (y0 y1 : F64) (c0 c1 : Cells),
    (y0, c0) = svfStep F fs fc flt.res z.svf0 x → (y1, c1) = svfStep F fs fc flt.res z.svf1 y0 →
    (flt.poles = .two → svfCascade F fs flt fc x z = (y0, { z with svf0 := c0 })) ∧
    (flt.poles = .four → svfCascade F fs flt fc x z = (y1, { z with svf0 := c0, svf1 := c1 })))

/-- The shapers. Soft-clip (rule R187) is TWO_OVER_PI times FATAN of the gain times the input, with CLIP_POS
where the input is at least 0.0 and CLIP_NEG elsewhere, for a NaN too; its value is in [-1.0, 1.0] for any
input. Bit-crush (rule R188): the value of a finite input, where it does not overflow, is a multiple of
`2^-(b-1)` at most half a step from the input, and from half way between two the one farther from zero; an
input that is not finite passes unchanged. -/
def Obligations.ShapersStayOnTheirGrid : Prop :=
  (∀ (F : Fns) (h : Shp) (y : F64),
    (F64.le ⟨0#64⟩ y = true →
      softClip F h y = F64.mul ⟨0x3FE45F306DC9C883#64⟩ (F.fatan (F64.mul h.clipPos y))) ∧
    (F64.le ⟨0#64⟩ y = false →
      softClip F h y = F64.mul ⟨0x3FE45F306DC9C883#64⟩ (F.fatan (F64.mul h.clipNeg y)))) ∧
  (∀ (h : Shp) (y : F64), Within (softClip openFns h y) F64.negOne F64.one) ∧
  (∀ (b : Fin 25) (y : F64), b ≠ 0 →
    (y.isFinite = true → (bitCrush openFns b y).isFinite = true →
      (∃ m : Int, (bitCrush openFns b y).units * 2 ^ (b.val - 1) = m * 2 ^ 1074) ∧
      |(bitCrush openFns b y).units - y.units| * 2 ^ b.val ≤ 2 ^ 1074 ∧
      (|(bitCrush openFns b y).units - y.units| * 2 ^ b.val = 2 ^ 1074 →
        |y.units| < |(bitCrush openFns b y).units|)) ∧
    (y.isFinite = false → bitCrush openFns b y = y))

/-- The raw waveform values (rules R101 to R105), every operation in the order the rules write; the square
wave takes SQ_TIE where the sine value is a zero of either sign or a NaN. `play` is the raw value times the
channel's gain, times the current amplitude, for every waveform (rule R106). -/
def Obligations.RawWaveformsFollowTheirFormulas : Prop :=
  ∀ (F : Fns) (tie : SqTie) (o : Osc) (f t v g : F64) (k : Nat),
    v = F.fsin (F64.add (F64.mul (F64.mul ⟨0x401921FB54442D18#64⟩ f) t) o.fm) → g = F64.add f o.fm →
    (o.wave = .sine → (rawWave F tie o f t k).1 = v) ∧
    (o.wave = .square →
      (F64.lt F64.zero v = true → (rawWave F tie o f t k).1 = ⟨0x3FF0000000000000#64⟩) ∧
      (F64.lt v F64.zero = true → (rawWave F tie o f t k).1 = ⟨0xBFF0000000000000#64⟩) ∧
      (v.isZero = true ∨ v.isNaN = true → (rawWave F tie o f t k).1 = tieValue tie)) ∧
    (o.wave = .saw →
      (F64.eq g F64.zero = true → (rawWave F tie o f t k).1 = ⟨0xBFF921FB54442D18#64⟩) ∧
      (F64.eq g F64.zero = false → (rawWave F tie o f t k).1 =
        F64.sub (F64.mul (F64.mul g ⟨0x401921FB54442D18#64⟩) (F64.fmod t (F64.div F64.one g)))
          ⟨0x3FF921FB54442D18#64⟩)) ∧
    (o.wave = .triangle → (rawWave F tie o f t k).1 = F.fasin v) ∧
    (o.wave = .noise → (rawWave F tie o f t k).1 = F.draw k) ∧
    ∀ c : Fin 4, (play F tie o f t c k).1 =
      F64.mul (F64.mul (rawWave F tie o f t k).1 o.gain[c]) o.amp

/-- Only the noise waveform consumes the draw stream, one element a call, and its output is the draw
scaled; no other waveform depends on the stream (rules R100, R105, R106). -/
def Obligations.OnlyNoiseConsumesDraws : Prop :=
  ∀ (F : Fns) (tie : SqTie) (o : Osc) (f t : F64) (c : Fin 4) (k : Nat),
    (o.wave = .noise →
      play F tie o f t c k = (F64.mul (F64.mul (F.draw k) o.gain[c]) o.amp, k + 1)) ∧
    (o.wave ≠ .noise →
      (play F tie o f t c k).2 = k ∧
      ∀ (d : Nat → F64) (k' : Nat),
        (play { F with draw := d } tie o f t c k').1 = (play F tie o f t c k).1)

/-- Before the gains, a square or noise value is in [-1.0, 1.0]; at a finite phase `TWO_PI * f * t + FM` a sine
value is in [-1.0, 1.0] and a triangle value in [-HALF_PI, HALF_PI], and at any other phase both are NaN (rules
R10, R101, R102, R104, R105, R107). -/
def Obligations.RawWaveformsStayInTheirBounds : Prop :=
  ∀ (tie : SqTie) (o : Osc) (f t ph : F64) (k : Nat),
    ph = F64.add (F64.mul (F64.mul ⟨0x401921FB54442D18#64⟩ f) t) o.fm →
    (o.wave = .square ∨ o.wave = .noise →
      Within (rawWave openFns tie o f t k).1 F64.negOne F64.one) ∧
    (ph.isFinite = true →
      (o.wave = .sine → Within (rawWave openFns tie o f t k).1 F64.negOne F64.one) ∧
      (o.wave = .triangle →
        Within (rawWave openFns tie o f t k).1 (F64.neg F64.halfPi) F64.halfPi)) ∧
    (ph.isFinite = false → o.wave = .sine ∨ o.wave = .triangle →
      (rawWave openFns tie o f t k).1.isNaN = true)

/-- The effective cutoff of every pass is in [30.0, 22000.0] Hz, for a NaN modulation too (rule R235). -/
def Obligations.EffectiveCutoffStaysInRange : Prop :=
  ∀ (F : Fns) (x : Ctx) (cutoff : F64) (out : Vector F64 3),
    Within (effectiveCutoff F x cutoff out) ⟨0x403E000000000000#64⟩ ⟨0x40D57C0000000000#64⟩

/-- A PCM sample is in -32767..32767 for every number, a NaN gives 0, values beyond [-1, 1] give the ends of the
range, never a wrapped value, and a value in [-1, 1] gives its product with 32767.0 cut toward zero (rules R40,
R238). -/
def Obligations.PcmIsClampedNeverWrapped : Prop :=
  ∀ y : F64,
    -32767 ≤ (pcm y).toInt ∧ (pcm y).toInt ≤ 32767 ∧
    (y.isNaN = true → pcm y = 0#16) ∧
    (F64.le ⟨0x3FF0000000000000#64⟩ y = true → (pcm y).toInt = 32767) ∧
    (F64.le y ⟨0xBFF0000000000000#64⟩ = true → (pcm y).toInt = -32767) ∧
    (Within y ⟨0xBFF0000000000000#64⟩ ⟨0x3FF0000000000000#64⟩ →
      (pcm y).toInt = (F64.mul y ⟨0x40DFFFC000000000#64⟩).units.tdiv (2 ^ 1074))

/-! ### Numbers -/

/-- The rounding of every operation (rule R8): the result is the nearest binary64 to the exact ratio,
a tie goes to the even fraction, and the result is an infinity exactly from the midpoint above the
largest finite value on. The overflow threshold, the subnormal range and the sign of a zero are DEDUCED from
the rule's IEEE 754 binary64 (log entry 10). -/
def Obligations.RoundingIsToNearestEven : Prop :=
  ∀ (neg : Bool) (num den : Nat), 0 < den →
    (F64.roundRatio neg num den).isNeg = neg ∧
    (F64.isInf (F64.roundRatio neg num den) = true ↔ (2 ^ 54 - 1) * 2 ^ 2044 * den ≤ num) ∧
    (F64.isInf (F64.roundRatio neg num den) = false →
      F64.isFinite (F64.roundRatio neg num den) = true ∧
      ∀ y : F64, y.isFinite = true →
        |(((F64.roundRatio neg num den).mag * den : Nat) : Int) - num| ≤
          |((y.mag * den : Nat) : Int) - num| ∧
        (|((y.mag * den : Nat) : Int) - num| =
            |(((F64.roundRatio neg num den).mag * den : Nat) : Int) - num| →
          y.mag ≠ (F64.roundRatio neg num den).mag →
          (F64.roundRatio neg num den).frac % 2 = 0))

/-- Addition, subtraction, multiplication and division (rule R8): each is the correct rounding of the exact
result of its finite operands, ties to even and overflow to an infinity said too; a product and a quotient
have the exclusive-or of the signs. The rest is DEDUCED from IEEE 754 (log entry 10): the sign of a zero sum,
+0.0 but for two negative zeros; a nonzero value over a zero is an infinity; a NaN operand, 0/0, inf/inf,
0 * inf and inf - inf give NaN. -/
def Obligations.ArithmeticIsCorrectlyRounded : Prop :=
  (∀ a b : F64, a.isFinite = true → b.isFinite = true →
    CorrectlyRounded (F64.add a b) (a.units + b.units) 1 ∧
    CorrectlyRounded (F64.sub a b) (a.units - b.units) 1 ∧
    CorrectlyRounded (F64.mul a b) (a.units * b.units) (2 ^ 1074) ∧
    (b.isZero = false →
      CorrectlyRounded (F64.div a b) (a.units * 2 ^ 1074 * b.units.sign) b.units.natAbs) ∧
    (a.units + b.units = 0 → (F64.add a b).isNeg = (a.isNeg && b.isNeg)) ∧
    (a.units = b.units → (F64.sub a b).isNeg = (a.isNeg && !b.isNeg)) ∧
    (F64.mul a b).isNeg = (a.isNeg != b.isNeg) ∧
    (a.isZero = false ∨ b.isZero = false → (F64.div a b).isNeg = (a.isNeg != b.isNeg)) ∧
    (a.isZero = false → b.isZero = true → (F64.div a b).isInf = true) ∧
    (a.isZero = true → b.isZero = true → (F64.div a b).isNaN = true)) ∧
  (∀ a b : F64, a.isNaN = true ∨ b.isNaN = true →
    (F64.add a b).isNaN = true ∧ (F64.sub a b).isNaN = true ∧ (F64.mul a b).isNaN = true ∧
      (F64.div a b).isNaN = true) ∧
  (∀ a b : F64, a.isInf = true → b.isInf = true → (F64.div a b).isNaN = true ∧
    (F64.add a (F64.neg a)).isNaN = true ∧ (F64.sub a a).isNaN = true) ∧
  (∀ a b : F64, a.isZero = true → b.isInf = true →
    (F64.mul a b).isNaN = true ∧ (F64.mul b a).isNaN = true)

/-- `fmod` is exact (rule R11): for finite operands and a nonzero divisor the result is the remainder
of the truncated quotient, with no rounding, and has the dividend's sign bit (of a zero remainder too:
DEDUCED, log entry 10). -/
def Obligations.FmodIsExact : Prop :=
  ∀ x y : F64, x.isFinite = true → y.isFinite = true → y.isZero = false →
    (F64.fmod x y).isFinite = true ∧ (F64.fmod x y).units = x.units.tmod y.units ∧
      (F64.fmod x y).isNeg = x.isNeg

/-- The open functions have the properties of rules R10 and R12. -/
def Obligations.OpenFunctionsHaveTheirProperties : Prop :=
  (∀ x : F64, x.isFinite = true → Within (fsin x) F64.negOne F64.one ∧
    Within (fcos x) F64.negOne F64.one) ∧
  (∀ x : F64, x.isFinite = false → (fsin x).isNaN = true ∧ (fcos x).isNaN = true) ∧
  fsin F64.zero = F64.zero ∧ fcos F64.zero = F64.one ∧
  (∀ x : F64, Within x F64.negOne F64.one → Within (fasin x) (F64.neg F64.halfPi) F64.halfPi) ∧
  fasin F64.zero = F64.zero ∧ fasin F64.one = F64.halfPi ∧
  fasin F64.negOne = F64.neg F64.halfPi ∧
  (∀ x : F64, x.isNaN = true → (fasin x).isNaN = true) ∧
  (∀ x : F64, Within (fatan x) (F64.neg F64.halfPi) F64.halfPi ∧
    fatan (F64.neg x) = F64.neg (fatan x)) ∧
  fatan F64.zero = F64.zero ∧
  (∀ x : F64, F64.lt F64.zero x = true → F64.lt x F64.halfPi = true →
    (ftan x).isFinite = true ∧ F64.lt F64.zero (ftan x) = true) ∧
  (∀ x : F64, x.isFinite = true → F64.lt F64.zero (fexp2 x) = true) ∧
  (∀ (x : F64) (k : Int), x.isFinite = true → x.units = k * 2 ^ 1074 → -1022 ≤ k → k ≤ 1023 →
    (fexp2 x).isFinite = true ∧ (fexp2 x).units = 2 ^ (k + 1074).toNat) ∧
  (∀ k : Nat, Within (noiseDraw k) F64.negOne F64.one)
end

