-- ==== Sys2Proof/Laws/Binary64.lean ====
section
/-! SUPPORT. Small laws of binary64 values (rules R7, R8, R11): the fields of a built value, the comparisons
as integer comparisons, the clamp's range. -/

namespace Sys2Proof.F64

/-! ### Fields of a built value -/

@[simp] theorem ofBits_toNat (n : Nat) : (ofBits n).bits.toNat = n % 2 ^ 64 := by
  simp [ofBits]

theorem expo_eq (x : F64) : expo x = x.bits.toNat / 2 ^ 52 % 2 ^ 11 := by
  simp [expo, BitVec.extractLsb'_toNat, Nat.shiftRight_eq_div_pow]

theorem frac_eq (x : F64) : frac x = x.bits.toNat % 2 ^ 52 := by
  simp [frac, BitVec.extractLsb'_toNat]

theorem isNeg_eq (x : F64) : isNeg x = decide (2 ^ 63 ≤ x.bits.toNat) := by
  simp [isNeg, BitVec.msb_eq_decide]

theorem withSign_toNat (neg : Bool) {m : Nat} (h : m < 2 ^ 63) :
    (withSign neg m).bits.toNat = if neg then 2 ^ 63 + m else m := by
  unfold withSign
  rw [ofBits_toNat]
  split
  · omega
  · omega

theorem withSign_isNeg (neg : Bool) {m : Nat} (h : m < 2 ^ 63) : isNeg (withSign neg m) = neg := by
  rw [isNeg_eq, withSign_toNat neg h]
  cases neg
  · simpa using h
  · simp

theorem withSign_expo (neg : Bool) {m : Nat} (h : m < 2 ^ 63) : expo (withSign neg m) = m / 2 ^ 52 := by
  rw [expo_eq, withSign_toNat neg h]
  cases neg
  all_goals simp only [Bool.false_eq_true, ↓reduceIte]
  all_goals omega

theorem withSign_frac (neg : Bool) {m : Nat} (h : m < 2 ^ 63) : frac (withSign neg m) = m % 2 ^ 52 := by
  rw [frac_eq, withSign_toNat neg h]
  cases neg
  all_goals simp only [Bool.false_eq_true, ↓reduceIte]
  all_goals omega

/-- The lower 63 bits `roundRatio` builds are those of an infinity at most. -/
theorem infBits_lt : infBits < 2 ^ 63 := by decide

/-- The result of `roundRatio` has the sign it was asked for. -/
theorem roundRatio_isNeg (neg : Bool) (num den : Nat) : isNeg (roundRatio neg num den) = neg :=
  withSign_isNeg neg (lt_of_le_of_lt (Nat.min_le_left _ _) infBits_lt)

/-- `roundRatio` never makes a NaN. -/
theorem roundRatio_not_nan (neg : Bool) (num den : Nat) : isNaN (roundRatio neg num den) = false := by
  unfold roundRatio
  have h := Nat.min_le_left infBits
    (spacing num den * 2 ^ 52 + divEven num (den * 2 ^ spacing num den))
  simp only
  generalize min infBits _ = m at h ⊢
  have hm : m < 2 ^ 63 := lt_of_le_of_lt h infBits_lt
  simp only [isNaN, withSign_expo neg hm, withSign_frac neg hm]
  simp only [infBits] at h
  simp only [Bool.and_eq_false_iff, beq_eq_false_iff_ne, bne_eq_false_iff_eq]
  omega

/-! ### Comparisons (rule R7) -/

theorem le_iff {a b : F64} :
    le a b = true ↔ isNaN a = false ∧ isNaN b = false ∧ units a ≤ units b := by
  simp [le, and_assoc]

theorem lt_iff {a b : F64} :
    lt a b = true ↔ isNaN a = false ∧ isNaN b = false ∧ units a < units b := by
  simp [lt, and_assoc]

theorem eq_iff {a b : F64} :
    eq a b = true ↔ isNaN a = false ∧ isNaN b = false ∧ units a = units b := by
  simp [eq, and_assoc]

theorem le_refl {a : F64} (h : isNaN a = false) : le a a = true :=
  le_iff.2 ⟨h, h, Int.le_refl _⟩

theorem le_trans {a b c : F64} (h₁ : le a b = true) (h₂ : le b c = true) : le a c = true := by
  rw [le_iff] at *
  exact ⟨h₁.1, h₂.2.1, h₁.2.2.trans h₂.2.2⟩

/-! ### The clamp (rule R11) -/

/-- The clamp of any value, a NaN too, is in its range. -/
theorem clamp_range {x lo hi : F64} (h : le lo hi = true) :
    le lo (clamp x lo hi) = true ∧ le (clamp x lo hi) hi = true := by
  have hlo := le_refl (le_iff.1 h).1
  have hhi := le_refl (le_iff.1 h).2.1
  unfold clamp
  cases hx : le lo x
  · exact ⟨hlo, h⟩
  · cases hy : lt hi x
    · refine ⟨hx, le_iff.2 ⟨(le_iff.1 hx).2.1, (le_iff.1 h).2.1, ?_⟩⟩
      rw [Bool.eq_false_iff] at hy
      by_contra hc
      exact hy (lt_iff.2 ⟨(le_iff.1 h).2.1, (le_iff.1 hx).2.1, not_le.1 hc⟩)
    · exact ⟨h, hhi⟩

/-- A clamp does not change a value in its range. -/
theorem clamp_inside {x lo hi : F64} (h₁ : le lo x = true) (h₂ : le x hi = true) :
    clamp x lo hi = x := by
  have : lt hi x = false := by
    rw [Bool.eq_false_iff]
    intro h
    have := (lt_iff.1 h).2.2
    have := (le_iff.1 h₂).2.2
    omega
  simp [clamp, h₁, this]

/-! ### Sign and magnitude -/

theorem units_natAbs (x : F64) : (units x).natAbs = mag x := by
  unfold units
  split <;> simp

/-- A NaN operation result is a NaN. -/
theorem asNaN_isNaN (x : F64) : isNaN (asNaN x) = true := by
  unfold asNaN
  split
  · assumption
  · simp only [isNaN, Bool.and_eq_true, beq_iff_eq, bne_iff_ne, ne_eq]
    constructor
    · simp only [expo]
      rw [show (x.bits ||| 0x7FF0000000000001#64).extractLsb' 52 11 = BitVec.allOnes 11 by
        ext i hi
        simp only [BitVec.getElem_extractLsb', BitVec.getLsbD_or, BitVec.getElem_allOnes]
        have : (0x7FF0000000000001#64).getLsbD (52 + i) = true := by
          interval_cases i <;> rfl
        simp [this]]
      rfl
    · simp only [frac]
      intro h
      have h0 : ((x.bits ||| 0x7FF0000000000001#64).extractLsb' 0 52).getLsbD 0 = true := by simp
      rw [BitVec.getLsbD, h] at h0
      simp at h0

end Sys2Proof.F64
end

