-- ==== Sys2Proof/Laws/Decode.lean ====
section
/-! SUPPORT. The fields of a header word put together from its fields (rules R81, R85), a data operand put
together from its words (rule R82), and the opcode map against a command's parts. -/

namespace Sys2Proof

@[simp] theorem opField_header (op : BitVec 8) (f : Fields) : opField (header op f) = op := by
  unfold opField header
  ext i hi
  simp only [BitVec.getElem_extractLsb', BitVec.getLsbD_append]
  grind

@[simp] theorem fieldsOf_header (op : BitVec 8) (f : Fields) : fieldsOf (header op f) = f := by
  unfold fieldsOf header
  congr 1 <;>
  · ext i hi
    simp only [BitVec.getElem_extractLsb', BitVec.getLsbD_append]
    grind

@[simp] theorem header_fields (h : Word) : header (opField h) (fieldsOf h) = h := by
  unfold header opField fieldsOf
  ext i hi
  simp only [BitVec.getElem_append, BitVec.getElem_extractLsb']
  grind

@[simp] theorem dataOf_dataWords (d : F64) :
    dataOf (d.bits.extractLsb' 0 32) (d.bits.extractLsb' 32 32) = d := by
  unfold dataOf
  congr 1
  ext i hi
  simp only [BitVec.getElem_append, BitVec.getElem_extractLsb']
  grind

@[simp] theorem dataWords_dataOf (w1 w2 : Word) : dataWords (dataOf w1 w2) = [w1, w2] := by
  unfold dataWords dataOf
  congr 1
  · ext i hi
    simp only [BitVec.getElem_extractLsb', BitVec.getLsbD_append]
    grind
  · congr 1
    ext i hi
    simp only [BitVec.getElem_extractLsb', BitVec.getLsbD_append]
    grind

/-- A format-H opcode decodes from one word. -/
theorem decode_h {op : BitVec 8} {mk : Fields → Instr} (h : opcodeMap op = some (.h mk)) (f : Fields)
    (rest : List Word) : decode (header op f :: rest) = .ok (mk f) := by
  simp [decode, h]

/-- A format-HD opcode decodes from three words. -/
theorem decode_hd {op : BitVec 8} {mk : Fields → F64 → Instr} (h : opcodeMap op = some (.hd mk))
    (f : Fields) (w1 w2 : Word) (rest : List Word) :
    decode (header op f :: w1 :: w2 :: rest) = .ok (mk f (dataOf w1 w2)) := by
  simp [decode, h]

end Sys2Proof
end

