-- ==== Sys2Proof/Laws/State.lean ====
section
/-! SUPPORT. One lemma per field of State for each update the machine makes, true by unfolding the update
once, so that no later proof unfolds a record update. -/

namespace Sys2Proof.Machine

variable (s : State)

/-! ### Rewriting one oscillator -/

@[simp] theorem State.updOsc_osc (i : Fin 3) (f : Osc → Osc) :
    (s.updOsc i f).osc = s.osc.set i (f s.osc[i]) := rfl
@[simp] theorem State.updOsc_env (i : Fin 3) (f : Osc → Osc) : (s.updOsc i f).env = s.env := rfl
@[simp] theorem State.updOsc_held (i : Fin 3) (f : Osc → Osc) : (s.updOsc i f).held = s.held := rfl
@[simp] theorem State.updOsc_route (i : Fin 3) (f : Osc → Osc) : (s.updOsc i f).route = s.route := rfl
@[simp] theorem State.updOsc_flt (i : Fin 3) (f : Osc → Osc) : (s.updOsc i f).flt = s.flt := rfl
@[simp] theorem State.updOsc_shp (i : Fin 3) (f : Osc → Osc) : (s.updOsc i f).shp = s.shp := rfl
@[simp] theorem State.updOsc_master (i : Fin 3) (f : Osc → Osc) : (s.updOsc i f).master = s.master := rfl
@[simp] theorem State.updOsc_chan (i : Fin 3) (f : Osc → Osc) : (s.updOsc i f).chan = s.chan := rfl
@[simp] theorem State.updOsc_T (i : Fin 3) (f : Osc → Osc) : (s.updOsc i f).T = s.T := rfl
@[simp] theorem State.updOsc_N (i : Fin 3) (f : Osc → Osc) : (s.updOsc i f).N = s.N := rfl
@[simp] theorem State.updOsc_status (i : Fin 3) (f : Osc → Osc) : (s.updOsc i f).status = s.status := rfl
@[simp] theorem State.updOsc_cfg (i : Fin 3) (f : Osc → Osc) : (s.updOsc i f).cfg = s.cfg := rfl
@[simp] theorem State.updOsc_input (i : Fin 3) (f : Osc → Osc) : (s.updOsc i f).input = s.input := rfl
@[simp] theorem State.updOsc_draws (i : Fin 3) (f : Osc → Osc) : (s.updOsc i f).draws = s.draws := rfl
@[simp] theorem State.updOsc_frames (i : Fin 3) (f : Osc → Osc) : (s.updOsc i f).frames = s.frames := rfl
@[simp] theorem State.updOsc_responses (i : Fin 3) (f : Osc → Osc) :
    (s.updOsc i f).responses = s.responses := rfl

/-! ### Rewriting one channel -/

@[simp] theorem State.updChan_osc (c : Fin 4) (f : Chan → Chan) : (s.updChan c f).osc = s.osc := rfl
@[simp] theorem State.updChan_env (c : Fin 4) (f : Chan → Chan) : (s.updChan c f).env = s.env := rfl
@[simp] theorem State.updChan_held (c : Fin 4) (f : Chan → Chan) : (s.updChan c f).held = s.held := rfl
@[simp] theorem State.updChan_route (c : Fin 4) (f : Chan → Chan) :
    (s.updChan c f).route = s.route := rfl
@[simp] theorem State.updChan_flt (c : Fin 4) (f : Chan → Chan) : (s.updChan c f).flt = s.flt := rfl
@[simp] theorem State.updChan_shp (c : Fin 4) (f : Chan → Chan) : (s.updChan c f).shp = s.shp := rfl
@[simp] theorem State.updChan_master (c : Fin 4) (f : Chan → Chan) :
    (s.updChan c f).master = s.master := rfl
@[simp] theorem State.updChan_chan (c : Fin 4) (f : Chan → Chan) :
    (s.updChan c f).chan = s.chan.set c (f s.chan[c]) := rfl
@[simp] theorem State.updChan_T (c : Fin 4) (f : Chan → Chan) : (s.updChan c f).T = s.T := rfl
@[simp] theorem State.updChan_N (c : Fin 4) (f : Chan → Chan) : (s.updChan c f).N = s.N := rfl
@[simp] theorem State.updChan_status (c : Fin 4) (f : Chan → Chan) :
    (s.updChan c f).status = s.status := rfl
@[simp] theorem State.updChan_cfg (c : Fin 4) (f : Chan → Chan) : (s.updChan c f).cfg = s.cfg := rfl
@[simp] theorem State.updChan_input (c : Fin 4) (f : Chan → Chan) :
    (s.updChan c f).input = s.input := rfl
@[simp] theorem State.updChan_draws (c : Fin 4) (f : Chan → Chan) :
    (s.updChan c f).draws = s.draws := rfl
@[simp] theorem State.updChan_frames (c : Fin 4) (f : Chan → Chan) :
    (s.updChan c f).frames = s.frames := rfl
@[simp] theorem State.updChan_responses (c : Fin 4) (f : Chan → Chan) :
    (s.updChan c f).responses = s.responses := rfl

/-! ### Rewriting one matrix row -/

@[simp] theorem State.updRoute_osc (r : Fin 5) (f : BitVec 9 → BitVec 9) :
    (s.updRoute r f).osc = s.osc := rfl
@[simp] theorem State.updRoute_env (r : Fin 5) (f : BitVec 9 → BitVec 9) :
    (s.updRoute r f).env = s.env := rfl
@[simp] theorem State.updRoute_held (r : Fin 5) (f : BitVec 9 → BitVec 9) :
    (s.updRoute r f).held = s.held := rfl
@[simp] theorem State.updRoute_route (r : Fin 5) (f : BitVec 9 → BitVec 9) :
    (s.updRoute r f).route = s.route.set r (f s.route[r]) := rfl
@[simp] theorem State.updRoute_flt (r : Fin 5) (f : BitVec 9 → BitVec 9) :
    (s.updRoute r f).flt = s.flt := rfl
@[simp] theorem State.updRoute_shp (r : Fin 5) (f : BitVec 9 → BitVec 9) :
    (s.updRoute r f).shp = s.shp := rfl
@[simp] theorem State.updRoute_master (r : Fin 5) (f : BitVec 9 → BitVec 9) :
    (s.updRoute r f).master = s.master := rfl
@[simp] theorem State.updRoute_chan (r : Fin 5) (f : BitVec 9 → BitVec 9) :
    (s.updRoute r f).chan = s.chan := rfl
@[simp] theorem State.updRoute_T (r : Fin 5) (f : BitVec 9 → BitVec 9) : (s.updRoute r f).T = s.T := rfl
@[simp] theorem State.updRoute_N (r : Fin 5) (f : BitVec 9 → BitVec 9) : (s.updRoute r f).N = s.N := rfl
@[simp] theorem State.updRoute_status (r : Fin 5) (f : BitVec 9 → BitVec 9) :
    (s.updRoute r f).status = s.status := rfl
@[simp] theorem State.updRoute_cfg (r : Fin 5) (f : BitVec 9 → BitVec 9) :
    (s.updRoute r f).cfg = s.cfg := rfl
@[simp] theorem State.updRoute_input (r : Fin 5) (f : BitVec 9 → BitVec 9) :
    (s.updRoute r f).input = s.input := rfl
@[simp] theorem State.updRoute_draws (r : Fin 5) (f : BitVec 9 → BitVec 9) :
    (s.updRoute r f).draws = s.draws := rfl
@[simp] theorem State.updRoute_frames (r : Fin 5) (f : BitVec 9 → BitVec 9) :
    (s.updRoute r f).frames = s.frames := rfl
@[simp] theorem State.updRoute_responses (r : Fin 5) (f : BitVec 9 → BitVec 9) :
    (s.updRoute r f).responses = s.responses := rfl

/-! ### Raising an error -/

@[simp] theorem raise_osc (e : Err) : (raise e s).osc = s.osc := rfl
@[simp] theorem raise_env (e : Err) : (raise e s).env = s.env := rfl
@[simp] theorem raise_held (e : Err) : (raise e s).held = s.held := rfl
@[simp] theorem raise_route (e : Err) : (raise e s).route = s.route := rfl
@[simp] theorem raise_flt (e : Err) : (raise e s).flt = s.flt := rfl
@[simp] theorem raise_shp (e : Err) : (raise e s).shp = s.shp := rfl
@[simp] theorem raise_master (e : Err) : (raise e s).master = s.master := rfl
@[simp] theorem raise_chan (e : Err) : (raise e s).chan = s.chan := rfl
@[simp] theorem raise_T (e : Err) : (raise e s).T = s.T := rfl
@[simp] theorem raise_N (e : Err) : (raise e s).N = s.N := rfl
@[simp] theorem raise_status (e : Err) : (raise e s).status = setFlag e s.status := rfl
@[simp] theorem raise_cfg (e : Err) : (raise e s).cfg = s.cfg := rfl
@[simp] theorem raise_input (e : Err) : (raise e s).input = s.input := rfl
@[simp] theorem raise_draws (e : Err) : (raise e s).draws = s.draws := rfl
@[simp] theorem raise_frames (e : Err) : (raise e s).frames = s.frames := rfl
@[simp] theorem raise_responses (e : Err) : (raise e s).responses = s.responses := rfl

/-! ### Emitting a frame -/

@[simp] theorem emitFrame_osc (v : List Sample) : (emitFrame v s).osc = s.osc := rfl
@[simp] theorem emitFrame_env (v : List Sample) : (emitFrame v s).env = s.env := rfl
@[simp] theorem emitFrame_held (v : List Sample) : (emitFrame v s).held = s.held := rfl
@[simp] theorem emitFrame_route (v : List Sample) : (emitFrame v s).route = s.route := rfl
@[simp] theorem emitFrame_flt (v : List Sample) : (emitFrame v s).flt = s.flt := rfl
@[simp] theorem emitFrame_shp (v : List Sample) : (emitFrame v s).shp = s.shp := rfl
@[simp] theorem emitFrame_master (v : List Sample) : (emitFrame v s).master = s.master := rfl
@[simp] theorem emitFrame_chan (v : List Sample) : (emitFrame v s).chan = s.chan := rfl
@[simp] theorem emitFrame_T (v : List Sample) : (emitFrame v s).T = s.T := rfl
@[simp] theorem emitFrame_N (v : List Sample) : (emitFrame v s).N = s.N := rfl
@[simp] theorem emitFrame_status (v : List Sample) : (emitFrame v s).status = s.status := rfl
@[simp] theorem emitFrame_cfg (v : List Sample) : (emitFrame v s).cfg = s.cfg := rfl
@[simp] theorem emitFrame_input (v : List Sample) : (emitFrame v s).input = s.input := rfl
@[simp] theorem emitFrame_draws (v : List Sample) : (emitFrame v s).draws = s.draws := rfl
@[simp] theorem emitFrame_frames (v : List Sample) : (emitFrame v s).frames = s.frames ++ [v] := rfl
@[simp] theorem emitFrame_responses (v : List Sample) : (emitFrame v s).responses = s.responses := rfl

/-! ### Emitting a response -/

@[simp] theorem emitResponse_osc (v : Image) : (emitResponse v s).osc = s.osc := rfl
@[simp] theorem emitResponse_env (v : Image) : (emitResponse v s).env = s.env := rfl
@[simp] theorem emitResponse_held (v : Image) : (emitResponse v s).held = s.held := rfl
@[simp] theorem emitResponse_route (v : Image) : (emitResponse v s).route = s.route := rfl
@[simp] theorem emitResponse_flt (v : Image) : (emitResponse v s).flt = s.flt := rfl
@[simp] theorem emitResponse_shp (v : Image) : (emitResponse v s).shp = s.shp := rfl
@[simp] theorem emitResponse_master (v : Image) : (emitResponse v s).master = s.master := rfl
@[simp] theorem emitResponse_chan (v : Image) : (emitResponse v s).chan = s.chan := rfl
@[simp] theorem emitResponse_T (v : Image) : (emitResponse v s).T = s.T := rfl
@[simp] theorem emitResponse_N (v : Image) : (emitResponse v s).N = s.N := rfl
@[simp] theorem emitResponse_status (v : Image) : (emitResponse v s).status = s.status := rfl
@[simp] theorem emitResponse_cfg (v : Image) : (emitResponse v s).cfg = s.cfg := rfl
@[simp] theorem emitResponse_input (v : Image) : (emitResponse v s).input = s.input := rfl
@[simp] theorem emitResponse_draws (v : Image) : (emitResponse v s).draws = s.draws := rfl
@[simp] theorem emitResponse_frames (v : Image) : (emitResponse v s).frames = s.frames := rfl
@[simp] theorem emitResponse_responses (v : Image) :
    (emitResponse v s).responses = s.responses ++ [v] := rfl

/-! ### The envelope's start (rule R144) -/

@[simp] theorem envStart_osc : (envStart s).osc = s.osc := rfl
@[simp] theorem envStart_env :
    (envStart s).env = { s.env with nOn := s.N, active := true, released := false } := rfl
@[simp] theorem envStart_held : (envStart s).held = s.held := rfl
@[simp] theorem envStart_route : (envStart s).route = s.route := rfl
@[simp] theorem envStart_flt : (envStart s).flt = s.flt := rfl
@[simp] theorem envStart_shp : (envStart s).shp = s.shp := rfl
@[simp] theorem envStart_master : (envStart s).master = s.master := rfl
@[simp] theorem envStart_chan : (envStart s).chan = s.chan := rfl
@[simp] theorem envStart_T : (envStart s).T = s.T := rfl
@[simp] theorem envStart_N : (envStart s).N = s.N := rfl
@[simp] theorem envStart_status : (envStart s).status = s.status := rfl
@[simp] theorem envStart_cfg : (envStart s).cfg = s.cfg := rfl
@[simp] theorem envStart_input : (envStart s).input = s.input := rfl
@[simp] theorem envStart_draws : (envStart s).draws = s.draws := rfl
@[simp] theorem envStart_frames : (envStart s).frames = s.frames := rfl
@[simp] theorem envStart_responses : (envStart s).responses = s.responses := rfl

/-! ### The envelope's stop (rule R145) -/

@[simp] theorem envStop_osc : (envStop s).osc = s.osc := rfl
@[simp] theorem envStop_env : (envStop s).env = 
    { s.env with aOff := envAmp s.cfg.fs s.env s.N, nOff := s.N, released := true } := rfl
@[simp] theorem envStop_held : (envStop s).held = s.held := rfl
@[simp] theorem envStop_route : (envStop s).route = s.route := rfl
@[simp] theorem envStop_flt : (envStop s).flt = s.flt := rfl
@[simp] theorem envStop_shp : (envStop s).shp = s.shp := rfl
@[simp] theorem envStop_master : (envStop s).master = s.master := rfl
@[simp] theorem envStop_chan : (envStop s).chan = s.chan := rfl
@[simp] theorem envStop_T : (envStop s).T = s.T := rfl
@[simp] theorem envStop_N : (envStop s).N = s.N := rfl
@[simp] theorem envStop_status : (envStop s).status = s.status := rfl
@[simp] theorem envStop_cfg : (envStop s).cfg = s.cfg := rfl
@[simp] theorem envStop_input : (envStop s).input = s.input := rfl
@[simp] theorem envStop_draws : (envStop s).draws = s.draws := rfl
@[simp] theorem envStop_frames : (envStop s).frames = s.frames := rfl
@[simp] theorem envStop_responses : (envStop s).responses = s.responses := rfl

/-! ### The advance of time at the end of a frame -/

@[simp] theorem advanceTime_osc : (advanceTime s).osc = s.osc := rfl
@[simp] theorem advanceTime_env : (advanceTime s).env = s.env := rfl
@[simp] theorem advanceTime_held : (advanceTime s).held = s.held := rfl
@[simp] theorem advanceTime_route : (advanceTime s).route = s.route := rfl
@[simp] theorem advanceTime_flt : (advanceTime s).flt = s.flt := rfl
@[simp] theorem advanceTime_shp : (advanceTime s).shp = s.shp := rfl
@[simp] theorem advanceTime_master : (advanceTime s).master = s.master := rfl
@[simp] theorem advanceTime_chan : (advanceTime s).chan = s.chan := rfl
@[simp] theorem advanceTime_T : (advanceTime s).T = F64.add s.T (dt s.cfg) := rfl
@[simp] theorem advanceTime_N : (advanceTime s).N = s.N + 1#64 := rfl
@[simp] theorem advanceTime_status : (advanceTime s).status = s.status := rfl
@[simp] theorem advanceTime_cfg : (advanceTime s).cfg = s.cfg := rfl
@[simp] theorem advanceTime_input : (advanceTime s).input = s.input := rfl
@[simp] theorem advanceTime_draws : (advanceTime s).draws = s.draws := rfl
@[simp] theorem advanceTime_frames : (advanceTime s).frames = s.frames := rfl
@[simp] theorem advanceTime_responses : (advanceTime s).responses = s.responses := rfl

/-! ### Reset: what it sets and what it does not touch (rules R300, R302) -/

@[simp] theorem resetRegisters_osc : (resetRegisters s).osc = (State.resetWith s.cfg).osc := rfl
@[simp] theorem resetRegisters_env : (resetRegisters s).env = (State.resetWith s.cfg).env := rfl
@[simp] theorem resetRegisters_held : (resetRegisters s).held = (State.resetWith s.cfg).held := rfl
@[simp] theorem resetRegisters_route : (resetRegisters s).route = (State.resetWith s.cfg).route := rfl
@[simp] theorem resetRegisters_flt : (resetRegisters s).flt = (State.resetWith s.cfg).flt := rfl
@[simp] theorem resetRegisters_shp : (resetRegisters s).shp = (State.resetWith s.cfg).shp := rfl
@[simp] theorem resetRegisters_master : (resetRegisters s).master = (State.resetWith s.cfg).master := rfl
@[simp] theorem resetRegisters_chan : (resetRegisters s).chan = (State.resetWith s.cfg).chan := rfl
@[simp] theorem resetRegisters_T : (resetRegisters s).T = (State.resetWith s.cfg).T := rfl
@[simp] theorem resetRegisters_N : (resetRegisters s).N = (State.resetWith s.cfg).N := rfl
@[simp] theorem resetRegisters_status : (resetRegisters s).status = (State.resetWith s.cfg).status := rfl
@[simp] theorem resetRegisters_cfg : (resetRegisters s).cfg = s.cfg := rfl
@[simp] theorem resetRegisters_input : (resetRegisters s).input = s.input := rfl
@[simp] theorem resetRegisters_draws : (resetRegisters s).draws = s.draws := rfl
@[simp] theorem resetRegisters_frames : (resetRegisters s).frames = s.frames := rfl
@[simp] theorem resetRegisters_responses : (resetRegisters s).responses = s.responses := rfl

/-! ### Reading a rewritten register group -/

theorem State.updOsc_self (i : Fin 3) (f : Osc → Osc) : (s.updOsc i f).osc[i] = f s.osc[i] := by
  simp

theorem State.updOsc_other {i j : Fin 3} (f : Osc → Osc) (h : j ≠ i) : (s.updOsc i f).osc[j] = s.osc[j] := by
  have : i.val ≠ j.val := fun e => h (Fin.ext e.symm)
  simp [Vector.getElem_set_ne, this]

theorem State.updChan_self (c : Fin 4) (f : Chan → Chan) : (s.updChan c f).chan[c] = f s.chan[c] := by
  simp

theorem State.updChan_other {c d : Fin 4} (f : Chan → Chan) (h : d ≠ c) :
    (s.updChan c f).chan[d] = s.chan[d] := by
  have : c.val ≠ d.val := fun e => h (Fin.ext e.symm)
  simp [Vector.getElem_set_ne, this]

theorem State.updRoute_self (r : Fin 5) (f : BitVec 9 → BitVec 9) :
    (s.updRoute r f).route[r] = f s.route[r] := by
  simp

theorem State.updRoute_other {r k : Fin 5} (f : BitVec 9 → BitVec 9) (h : k ≠ r) :
    (s.updRoute r f).route[k] = s.route[k] := by
  have : r.val ≠ k.val := fun e => h (Fin.ext e.symm)
  simp [Vector.getElem_set_ne, this]

end Sys2Proof.Machine
end

