-- ==== Sys2Proof/Laws/Ops.lean ====
section
/-! SUPPORT. What each shared operation can do, said once: the outcome of a command, the operand forms, the
flag operations and the meanings' shared shapes. -/

namespace Sys2Proof.Machine

/-! ### The outcome of a command (rule R284) -/

@[simp] theorem command_some (t s : State) : command (some t) s = .next t := rfl

@[simp] theorem command_none (s : State) : command none s = .next (raise .badField s) := rfl

/-- A format-H command leaves the state its operands give, or raises BAD_FIELD. -/
theorem command_next {r : Option State} {s t : State} :
    command r s = .next t ↔ r = some t ∨ (r = none ∧ t = raise .badField s) := by
  cases r <;> simp [eq_comm]

@[simp] theorem commandD_none (d : F64) (s : State) :
    commandD none d s = .next (raise .badField s) := rfl

theorem commandD_some_finite {d : F64} (t s : State) (h : d.isFinite = true) :
    commandD (some t) d s = .next t := by
  simp [commandD, h]

theorem commandD_some_nonfinite {d : F64} (t s : State) (h : d.isFinite = false) :
    commandD (some t) d s = .next (raise .nonfinite s) := by
  simp [commandD, h]

/-- A format-HD command leaves the state its operands give, or raises BAD_FIELD, or NONFINITE. -/
theorem commandD_next {r : Option State} {d : F64} {s t : State} :
    commandD r d s = .next t ↔
      (r = some t ∧ d.isFinite = true) ∨ (r = none ∧ t = raise .badField s) ∨
        (r.isSome = true ∧ d.isFinite = false ∧ t = raise .nonfinite s) := by
  cases r <;> cases h : d.isFinite <;> simp [commandD, h, eq_comm]

/-! ### Operand forms (rules R83, R84, R87) -/

theorem below_eq_some {n k : Nat} {i : Fin n} : below n k = some i ↔ k = i.val := by
  unfold below
  split
  · simp [Fin.ext_iff]
  · simp only [reduceCtorEq, false_iff]
    omega

theorem below_eq_none {n k : Nat} : below n k = none ↔ n ≤ k := by
  unfold below
  split <;> simp <;> omega

theorem unused_eq_some {w : Nat} {v : BitVec w} {u : Unit} : unused v = some u ↔ v = 0#w := by
  unfold unused
  split <;> simp [*]

theorem unused_eq_none {w : Nat} {v : BitVec w} : unused v = none ↔ v ≠ 0#w := by
  unfold unused
  split <;> simp [*]

@[simp] theorem unused_zero (w : Nat) : unused (0#w) = some () := by
  simp [unused]

theorem noOperands_eq_some {f : Fields} {u : Unit} :
    noOperands f = some u ↔ f.a = 0#4 ∧ f.b = 0#4 ∧ f.imm = 0#16 := by
  simp only [noOperands, Option.bind_eq_bind, Option.bind_eq_some_iff, unused_eq_some]
  simp

theorem oscForm_eq_some {a : BitVec 4} {i : Fin 3} : oscForm a = some i ↔ a.toNat = i.val :=
  below_eq_some

theorem srcForm_eq_some {a : BitVec 4} {i : Fin 5} : srcForm a = some i ↔ a.toNat = i.val :=
  below_eq_some

theorem routeForm_eq_some {b : BitVec 4} {i : Fin 9} : routeForm b = some i ↔ b.toNat = i.val :=
  below_eq_some

theorem bitsForm_eq_some {imm : BitVec 16} {i : Fin 25} : bitsForm imm = some i ↔ imm.toNat = i.val :=
  below_eq_some

theorem kindForm_eq_some {imm : BitVec 16} {w : Wave} :
    kindForm imm = some w ↔ imm.toNat = waveCode w := by
  unfold kindForm
  split <;> cases w <;> simp_all [waveCode]

theorem flagForm_eq_some {imm : BitVec 16} {v : Bool} :
    flagForm imm = some v ↔ imm.toNat = v.toNat := by
  unfold flagForm
  split <;> cases v <;> simp_all

theorem polesForm_eq_some {imm : BitVec 16} {p : Poles} :
    polesForm imm = some p ↔ imm.toNat = polesCode p := by
  unfold polesForm
  split <;> cases p <;> simp_all [polesCode]

theorem modeForm_eq_some {imm : BitVec 16} {m : FltMode} :
    modeForm imm = some m ↔ imm.toNat = modeCode m := by
  unfold modeForm
  split <;> cases m <;> simp_all [modeCode]

theorem noteForm_eq_some {imm : BitVec 16} {n : BitVec 7} :
    noteForm imm = some n ↔ imm.toNat = n.toNat := by
  unfold noteForm
  have hn := n.isLt
  split
  · simp only [Option.some.injEq, ← BitVec.toNat_inj, BitVec.toNat_setWidth]
    omega
  · simp only [reduceCtorEq, false_iff]
    omega

theorem maskForm_eq_some {imm : BitVec 16} {m : BitVec 5} :
    maskForm imm = some m ↔ imm.toNat = m.toNat := by
  unfold maskForm
  have hm := m.isLt
  split
  · simp only [Option.some.injEq, ← BitVec.toNat_inj, BitVec.toNat_setWidth]
    omega
  · simp only [reduceCtorEq, false_iff]
    omega

theorem octaveForm_range (imm : BitVec 16) : -4 ≤ octaveForm imm ∧ octaveForm imm ≤ 4 := by
  unfold octaveForm
  omega

/-! ### Flags (rules R266, R282) -/

theorem setFlag_keeps {e : Err} {st : BitVec 5} {k : Nat} (h : st.getLsbD k = true) :
    (setFlag e st).getLsbD k = true := by
  simp [setFlag, h]

theorem clearFlags_bit (m st : BitVec 5) {k : Nat} (h : k < 5) :
    (clearFlags m st).getLsbD k = (st.getLsbD k && !m.getLsbD k) := by
  simp [clearFlags, h]

/-! ### Shared shapes of meanings -/

theorem setOscNum_accepted {f : Fields} {d : F64} {i : Fin 3} (upd : Osc → Osc) (s : State)
    (ha : f.a.toNat = i.val) (hb : f.b = 0#4) (hi : f.imm = 0#16) (hd : d.isFinite = true) :
    setOscNum f d upd s = .next (s.updOsc i upd) := by
  simp [setOscNum, oscForm_eq_some.2 ha, hb, hi, commandD_some_finite, hd]

theorem setOscFlag_accepted {f : Fields} {i : Fin 3} {v : Bool} (upd : Bool → Osc → Osc) (s : State)
    (ha : f.a.toNat = i.val) (hb : f.b = 0#4) (hi : f.imm.toNat = v.toNat) :
    setOscFlag f upd s = .next (s.updOsc i (upd v)) := by
  simp [setOscFlag, oscForm_eq_some.2 ha, hb, flagForm_eq_some.2 hi]

theorem setEnv_accepted {d : F64} (upd : Env → Env) (s : State) (hd : d.isFinite = true) :
    setEnv ⟨0#4, 0#4, 0#16⟩ d upd s = .next { s with env := upd s.env } := by
  simp [setEnv, noOperands, commandD_some_finite, hd]

theorem setNum_accepted {d : F64} (t s : State) (hd : d.isFinite = true) :
    setNum ⟨0#4, 0#4, 0#16⟩ d t s = .next t := by
  simp [setNum, noOperands, commandD_some_finite, hd]

/-! ### Key events (rules R160, R161) -/

/-- NOTE_ON changes nothing, or raises NOTE_FULL, or appends the note. -/
theorem noteOn_cases (n : BitVec 7) (s : State) :
    (n ∈ s.held ∧ noteOn n s = s) ∨
    (n ∉ s.held ∧ s.held.length = s.cfg.maxNotes ∧ noteOn n s = raise .noteFull s) ∨
    (n ∉ s.held ∧ s.held.length ≠ s.cfg.maxNotes ∧ noteOn n s = addNote n s) := by
  unfold noteOn
  split
  · simp_all
  · split <;> simp_all

@[simp] theorem addNote_held (n : BitVec 7) (s : State) : (addNote n s).held = s.held ++ [n] := by
  unfold addNote
  split <;> simp

@[simp] theorem addNote_cfg (n : BitVec 7) (s : State) : (addNote n s).cfg = s.cfg := by
  unfold addNote
  split <;> simp

/-- NOTE_OFF changes nothing, or removes the note, and the last note's removal stops the envelope. -/
theorem noteOff_cases (n : BitVec 7) (s : State) :
    (n ∉ s.held ∧ noteOff n s = s) ∨
    (n ∈ s.held ∧ s.held.erase n = [] ∧ noteOff n s = envStop { s with held := s.held.erase n }) ∨
    (n ∈ s.held ∧ s.held.erase n ≠ [] ∧ noteOff n s = { s with held := s.held.erase n }) := by
  unfold noteOff
  split
  · split <;> simp_all
  · simp_all

/-! ### READ (rule R264) -/

/-- READ emits one response, and raises BAD_ADDR where the address is unmapped. -/
theorem readRegister_cases (a : BitVec 16) (s : State) :
    (∃ v, readAt s a = some v ∧ readRegister a s = emitResponse v s) ∨
    (readAt s a = none ∧ readRegister a s = emitResponse 0#64 (raise .badAddr s)) := by
  unfold readRegister
  cases readAt s a <;> simp

end Sys2Proof.Machine
end

