-- ==== Sys2Proof/Laws/Effect.lean ====
section
/-! SUPPORT. What executing a command can do, said once for all commands: BAD_FIELD, or NONFINITE, or
its own effect where it is well-formed (rules R283, R284). -/

namespace Sys2Proof.Machine

/-! ### Accepted fields -/

theorem noOperands_isSome (f : Fields) : (noOperands f).isSome = f.none := by
  rw [Bool.eq_iff_iff, Option.isSome_iff_exists]
  simp [noOperands_eq_some, Fields.none, and_assoc]

theorem unused_isSome {w : Nat} (v : BitVec w) : (unused v).isSome = (v == 0) := by
  rw [Bool.eq_iff_iff, Option.isSome_iff_exists]
  simp [unused_eq_some]

theorem below_isSome (n k : Nat) : (below n k).isSome = decide (k < n) := by
  unfold below
  split <;> simp [*]

theorem oscForm_isSome (a : BitVec 4) : (oscForm a).isSome = decide (a.toNat ≤ 2) := by
  simp [oscForm, below_isSome, Nat.lt_succ_iff]

theorem srcForm_isSome (a : BitVec 4) : (srcForm a).isSome = decide (a.toNat ≤ 4) := by
  simp [srcForm, below_isSome, Nat.lt_succ_iff]

theorem routeForm_isSome (b : BitVec 4) : (routeForm b).isSome = decide (b.toNat ≤ 8) := by
  simp [routeForm, below_isSome, Nat.lt_succ_iff]

theorem bitsForm_isSome (imm : BitVec 16) : (bitsForm imm).isSome = decide (imm.toNat ≤ 24) := by
  simp [bitsForm, below_isSome, Nat.lt_succ_iff]

theorem kindForm_isSome (imm : BitVec 16) : (kindForm imm).isSome = decide (imm.toNat ≤ 4) := by
  unfold kindForm
  split <;> simp_all
  omega

theorem flagForm_isSome (imm : BitVec 16) : (flagForm imm).isSome = decide (imm.toNat ≤ 1) := by
  unfold flagForm
  split <;> simp_all
  omega

theorem modeForm_isSome (imm : BitVec 16) : (modeForm imm).isSome = decide (imm.toNat ≤ 2) := by
  unfold modeForm
  split <;> simp_all
  omega

theorem polesForm_isSome (imm : BitVec 16) : (polesForm imm).isSome = (imm == 2 || imm == 4) := by
  unfold polesForm
  split <;> simp_all [← BitVec.toNat_inj]

theorem noteForm_isSome (imm : BitVec 16) : (noteForm imm).isSome = decide (imm.toNat ≤ 127) := by
  unfold noteForm
  split <;> simp_all

theorem maskForm_isSome (imm : BitVec 16) : (maskForm imm).isSome = decide (imm.toNat ≤ 0x1F) := by
  unfold maskForm
  split <;> simp_all

theorem any_const {α : Type} (o : Option α) (b : Bool) : o.any (fun _ => b) = (o.isSome && b) := by
  cases o <;> simp

/-- Every command is the outcome of its format on one option of a state, which is there exactly where the
fields are accepted: the table of rule R283. -/
theorem exec_format (i : Instr) (s : State) :
    ∃ r : Option State, exec i s = (match i.data with
        | none => command r s
        | some d => commandD r d s) ∧ r.isSome = i.fieldsOk := by
  have hi : ∀ x : BitVec 16, x.toNat ≤ 65535 := fun x => by have := x.isLt; omega
  cases i <;> refine ⟨_, rfl, ?_⟩ <;>
    simp [Instr.fieldsOk, Fields.oscOnly, Fields.oscImm, Fields.immUpTo, Option.isSome_bind,
      any_const, noOperands_isSome, unused_isSome, oscForm_isSome, srcForm_isSome, routeForm_isSome,
      bitsForm_isSome, kindForm_isSome, flagForm_isSome, modeForm_isSome, polesForm_isSome,
      noteForm_isSome, maskForm_isSome, hi, Bool.and_assoc]

/-- A command that answers a next state raised BAD_FIELD, or raised NONFINITE, or was well-formed. -/
theorem exec_cases {i : Instr} {s t : State} (h : exec i s = .next t) :
    (i.fieldsOk = false ∧ t = raise .badField s) ∨
    (i.fieldsOk = true ∧ i.dataOk = false ∧ t = raise .nonfinite s) ∨ i.wellFormed = true := by
  obtain ⟨r, hr, he⟩ := exec_format i s
  rw [h] at hr
  rcases hd : i.data with _ | d <;> rw [hd] at hr
  · rcases command_next.1 hr.symm with hs | ⟨hn, ht⟩
    · simp [Instr.wellFormed, Instr.dataOk, hd, ← he, hs]
    · simp [← he, hn, ht]
  · rcases commandD_next.1 hr.symm with ⟨hs, hf⟩ | ⟨hn, ht⟩ | ⟨hs, hf, ht⟩
    · simp [Instr.wellFormed, Instr.dataOk, hd, ← he, hs, hf]
    · simp [← he, hn, ht]
    · simp [Instr.dataOk, hd, ← he, hs, hf, ht]

end Sys2Proof.Machine
end

