-- ==== Sys2Proof/Laws/Fetch.lean ====
section
/-! SUPPORT. What the input holds next (rules R70, R92, R302): words before and after a hardware reset, and a
step by what was fetched. -/

namespace Sys2Proof.Machine

@[simp] theorem leadingWords_words (ws : List Word) (rest : List HostInput) :
    leadingWords (ws.map HostInput.word ++ rest) = ws ++ leadingWords rest := by
  induction ws with
  | nil => rfl
  | cons w ws ih => simp [leadingWords, ih]

@[simp] theorem afterWords_words (ws : List Word) (rest : List HostInput) :
    afterWords (ws.map HostInput.word ++ rest) = afterWords rest := by
  induction ws with
  | nil => rfl
  | cons w ws ih => simp [afterWords, ih]

/-- The words before the next reset, then the rest, are the input. -/
theorem leadingWords_afterWords (input : List HostInput) :
    (leadingWords input).map HostInput.word ++ afterWords input = input := by
  induction input with
  | nil => rfl
  | cons x rest ih => cases x <;> simp [leadingWords, afterWords, ih]

/-- A step by its four cases. -/
theorem step_cases (s : State) :
    (fetch s.input = .waiting ∧ step s = .next s) ∨
    (∃ rest, fetch s.input = .hardReset rest ∧
      step s = .next (resetRegisters { s with input := rest })) ∨
    (∃ rest, fetch s.input = .illegal rest ∧
      step s = .next (raise .illegalOp { s with input := rest })) ∨
    (∃ i rest, fetch s.input = .command i rest ∧ step s = exec i { s with input := rest }) := by
  unfold step
  cases h : fetch s.input <;> simp

end Sys2Proof.Machine
end

