-- ==== Sys2Proof/Laws/Frame.lean ====
section
/-! SUPPORT. What a pass and a frame can change (rules R230, R261): one lemma per field, and the induction
over the passes of a frame, packaged once. -/

namespace Sys2Proof.Machine

/-! ### Steps 1 to 3 of a pass (rules R231 to R233) -/

/-- Two oscillators that differ in FM and AMP alone: all that a pass writes of an oscillator. -/
def Osc.Same (a b : Osc) : Prop := b = { a with fm := b.fm, amp := b.amp }

theorem Osc.Same.rfl {a : Osc} : a.Same a := by simp [Osc.Same]

theorem Osc.Same.trans {a b c : Osc} (h₁ : a.Same b) (h₂ : b.Same c) : a.Same c := by
  unfold Osc.Same at *
  rw [h₂, h₁]

@[simp] theorem rawVoice_osc (F : Fns) (x : Ctx) (p : Pass) (i : Fin 3) :
    (rawVoice F x p i).osc = p.osc := rfl

@[simp] theorem step1_osc (F : Fns) (x : Ctx) (p : Pass) : (step1 F x p).osc = p.osc := by
  simp [step1, oscillators]

@[simp] theorem reEvaluate_osc (F : Fns) (x : Ctx) (j : Fin 3) (p : Pass) :
    (reEvaluate F x j p).osc = p.osc := by
  unfold reEvaluate
  split <;> simp

/-- A pitch target writes one FM register where its column is active, nothing else of an oscillator. -/
theorem pitchTarget_osc (F : Fns) (x : Ctx) (p : Pass) (j : Fin 3) :
    (pitchTarget F x p j).osc =
      if columnActive x.route (pitchCol j) then
        p.osc.set j { p.osc[j] with fm := fmSum x p j }
      else p.osc := by
  unfold pitchTarget
  split <;> simp

/-- An amplitude target writes one AMP register where its column is active. -/
theorem ampTarget_osc (F : Fns) (x : Ctx) (p : Pass) (j : Fin 3) :
    (ampTarget F x p j).osc =
      if columnActive x.route (ampCol j) then
        p.osc.set j { p.osc[j] with amp := ampProduct x p j }
      else p.osc := by
  unfold ampTarget
  split <;> simp

/-- A fold over oscillators keeps what each of its stages keeps. -/
theorem foldl_oscillators {P : Pass → Prop} {g : Pass → Fin 3 → Pass} (p : Pass) (hp : P p)
    (hg : ∀ q i, P q → P (g q i)) : P (oscillators.foldl g p) := by
  simp only [oscillators, List.foldl_cons, List.foldl_nil]
  exact hg _ _ (hg _ _ (hg _ _ hp))

theorem set_same {v : Vector Osc 3} {i j : Fin 3} {o : Osc} (h : v[i].Same o) :
    v[j].Same (v.set i o)[j] := by
  by_cases hij : i = j
  · subst hij
    simpa using h
  · have : i.val ≠ j.val := fun e => hij (Fin.ext e)
    simp [Vector.getElem_set_ne, this, Osc.Same]

theorem pitchTarget_same (F : Fns) (x : Ctx) (p : Pass) (i j : Fin 3) :
    p.osc[j].Same (pitchTarget F x p i).osc[j] := by
  rw [pitchTarget_osc]
  split
  · exact set_same (by simp [Osc.Same])
  · exact Osc.Same.rfl

theorem ampTarget_same (F : Fns) (x : Ctx) (p : Pass) (i j : Fin 3) :
    p.osc[j].Same (ampTarget F x p i).osc[j] := by
  rw [ampTarget_osc]
  split
  · exact set_same (by simp [Osc.Same])
  · exact Osc.Same.rfl

/-- Steps 1 to 3 write FM and AMP alone. -/
theorem voices_same (F : Fns) (s : State) (e : F64) (c : Fin 4) (j : Fin 3) :
    s.osc[j].Same (voices F s e c).osc[j] := by
  unfold voices step3 step2
  refine foldl_oscillators (P := fun p => s.osc[j].Same p.osc[j]) _ ?_
    fun q i hq => hq.trans (ampTarget_same F _ q i j)
  refine foldl_oscillators (P := fun p => s.osc[j].Same p.osc[j]) _ ?_
    fun q i hq => hq.trans (pitchTarget_same F _ q i j)
  simp [Osc.Same]

/-! ### A pass (rule R230) -/

section

variable (F : Fns) (e : F64) (s : State) (c : Fin 4)

@[simp] theorem compose_env : (compose F e s c).2.env = s.env := rfl
@[simp] theorem compose_held : (compose F e s c).2.held = s.held := rfl
@[simp] theorem compose_route : (compose F e s c).2.route = s.route := rfl
@[simp] theorem compose_flt : (compose F e s c).2.flt = s.flt := rfl
@[simp] theorem compose_shp : (compose F e s c).2.shp = s.shp := rfl
@[simp] theorem compose_master : (compose F e s c).2.master = s.master := rfl
@[simp] theorem compose_T : (compose F e s c).2.T = s.T := rfl
@[simp] theorem compose_N : (compose F e s c).2.N = s.N := rfl
@[simp] theorem compose_status : (compose F e s c).2.status = s.status := rfl
@[simp] theorem compose_cfg : (compose F e s c).2.cfg = s.cfg := rfl
@[simp] theorem compose_input : (compose F e s c).2.input = s.input := rfl
@[simp] theorem compose_frames : (compose F e s c).2.frames = s.frames := rfl
@[simp] theorem compose_responses : (compose F e s c).2.responses = s.responses := rfl

@[simp] theorem compose_osc : (compose F e s c).2.osc = (voices F s e c).osc := rfl
@[simp] theorem compose_draws : (compose F e s c).2.draws = (voices F s e c).draws := rfl

@[simp] theorem channelPass_env : (channelPass F e s c).env = s.env := rfl
@[simp] theorem channelPass_held : (channelPass F e s c).held = s.held := rfl
@[simp] theorem channelPass_route : (channelPass F e s c).route = s.route := rfl
@[simp] theorem channelPass_flt : (channelPass F e s c).flt = s.flt := rfl
@[simp] theorem channelPass_shp : (channelPass F e s c).shp = s.shp := rfl
@[simp] theorem channelPass_master : (channelPass F e s c).master = s.master := rfl
@[simp] theorem channelPass_T : (channelPass F e s c).T = s.T := rfl
@[simp] theorem channelPass_N : (channelPass F e s c).N = s.N := rfl
@[simp] theorem channelPass_status : (channelPass F e s c).status = s.status := rfl
@[simp] theorem channelPass_cfg : (channelPass F e s c).cfg = s.cfg := rfl
@[simp] theorem channelPass_input : (channelPass F e s c).input = s.input := rfl
@[simp] theorem channelPass_frames : (channelPass F e s c).frames = s.frames := rfl
@[simp] theorem channelPass_responses : (channelPass F e s c).responses = s.responses := rfl
@[simp] theorem channelPass_osc : (channelPass F e s c).osc = (voices F s e c).osc := rfl
@[simp] theorem channelPass_draws : (channelPass F e s c).draws = (voices F s e c).draws := rfl

/-- A pass writes its own channel alone. -/
theorem channelPass_chan_other {d : Fin 4} (h : d ≠ c) :
    (channelPass F e s c).chan[d] = s.chan[d] := by
  have : c.val ≠ d.val := fun e => h (Fin.ext e.symm)
  simp [channelPass, compose, Vector.getElem_set_ne, this]

/-- The channel after its pass: the sample is the pass's value, the cells those of the two stages. -/
theorem channelPass_chan_self :
    (channelPass F e s c).chan[c] =
      { (compose F e s c).2.chan[c] with
        outNum := (compose F e s c).1, outPcm := pcm (compose F e s c).1 } := by
  simp [channelPass]

end

/-! ### The passes of a frame (rule R261) -/

/-- What every pass keeps, the passes of a frame keep. -/
theorem passes_induction {F : Fns} {e : F64} {P : State → Prop} (s : State)
    (hs : P s) (hp : ∀ t c, P t → P (channelPass F e t c)) : P (passes F e s) := by
  unfold passes
  generalize liveChannels s.cfg = cs
  induction cs generalizing s with
  | nil => exact hs
  | cons c cs ih => exact ih _ (hp s c hs)

/-- A field no pass writes is not written by a frame's passes. -/
theorem passes_field {α : Type} {F : Fns} {e : F64} (get : State → α) (s : State)
    (h : ∀ t c, get (channelPass F e t c) = get t) : get (passes F e s) = get s :=
  passes_induction (P := fun t => get t = get s) s rfl fun t c ht => (h t c).trans ht

section

variable (F : Fns) (e : F64) (s : State)

@[simp] theorem passes_env : (passes F e s).env = s.env := passes_field State.env s fun _ _ => rfl
@[simp] theorem passes_held : (passes F e s).held = s.held := passes_field State.held s fun _ _ => rfl
@[simp] theorem passes_route : (passes F e s).route = s.route := passes_field State.route s fun _ _ => rfl
@[simp] theorem passes_flt : (passes F e s).flt = s.flt := passes_field State.flt s fun _ _ => rfl
@[simp] theorem passes_shp : (passes F e s).shp = s.shp := passes_field State.shp s fun _ _ => rfl
@[simp] theorem passes_master : (passes F e s).master = s.master :=
  passes_field State.master s fun _ _ => rfl
@[simp] theorem passes_T : (passes F e s).T = s.T := passes_field State.T s fun _ _ => rfl
@[simp] theorem passes_N : (passes F e s).N = s.N := passes_field State.N s fun _ _ => rfl
@[simp] theorem passes_status : (passes F e s).status = s.status :=
  passes_field State.status s fun _ _ => rfl
@[simp] theorem passes_cfg : (passes F e s).cfg = s.cfg := passes_field State.cfg s fun _ _ => rfl
@[simp] theorem passes_input : (passes F e s).input = s.input := passes_field State.input s fun _ _ => rfl
@[simp] theorem passes_frames : (passes F e s).frames = s.frames :=
  passes_field State.frames s fun _ _ => rfl
@[simp] theorem passes_responses : (passes F e s).responses = s.responses :=
  passes_field State.responses s fun _ _ => rfl

end

/-! ### The end of a frame -/

/-- Only ACTIVE can change at the end of a frame, and only from a completed envelope (rule R146). -/
theorem envEndOfFrame_eq (s : State) :
    envEndOfFrame s =
      { s with env := { s.env with active := s.env.active && !envDone s.cfg.fs s.env s.N } } := by
  unfold envEndOfFrame
  cases h : envDone s.cfg.fs s.env s.N <;> simp

theorem liveChannels_mem (p : Params) (c : Fin 4) : c ∈ liveChannels p ↔ c.val < p.nch := by
  unfold liveChannels
  fin_cases c <;> simp

theorem liveChannels_nodup (p : Params) : (liveChannels p).Nodup :=
  List.Nodup.filter _ (by decide)

end Sys2Proof.Machine
end

