-- ==== Sys2Proof/Laws/PerInstr.lean ====
section
/-! SUPPORT. Statements about every command, made command by command. WordCount: a command's length in words
is 3 where it has a data operand and 1 where it has none, and its encoding carries that operand (rule R80). -/

namespace Sys2Proof.Laws.WordCount

/-- The length of a command's encoding follows its format (rule R80). -/
def Statement (i : Instr) : Prop :=
  i.words = (if i.data.isSome then 3 else 1) ∧ i.parts.2.2 = i.data

theorem nop (f : Fields) : Statement (.nop f) := ⟨rfl, rfl⟩
theorem oscWave (f : Fields) : Statement (.oscWave f) := ⟨rfl, rfl⟩
theorem oscVolume (f : Fields) (d : F64) : Statement (.oscVolume f d) := ⟨rfl, rfl⟩
theorem oscGain (f : Fields) (d : F64) : Statement (.oscGain f d) := ⟨rfl, rfl⟩
theorem oscFreq (f : Fields) (d : F64) : Statement (.oscFreq f d) := ⟨rfl, rfl⟩
theorem oscFine (f : Fields) (d : F64) : Statement (.oscFine f d) := ⟨rfl, rfl⟩
theorem oscOctave (f : Fields) : Statement (.oscOctave f) := ⟨rfl, rfl⟩
theorem oscDrone (f : Fields) : Statement (.oscDrone f) := ⟨rfl, rfl⟩
theorem oscLfo (f : Fields) : Statement (.oscLfo f) := ⟨rfl, rfl⟩
theorem oscFm (f : Fields) (d : F64) : Statement (.oscFm f d) := ⟨rfl, rfl⟩
theorem oscAm (f : Fields) (d : F64) : Statement (.oscAm f d) := ⟨rfl, rfl⟩
theorem envAttack (f : Fields) (d : F64) : Statement (.envAttack f d) := ⟨rfl, rfl⟩
theorem envDecay (f : Fields) (d : F64) : Statement (.envDecay f d) := ⟨rfl, rfl⟩
theorem envSustain (f : Fields) (d : F64) : Statement (.envSustain f d) := ⟨rfl, rfl⟩
theorem envRelease (f : Fields) (d : F64) : Statement (.envRelease f d) := ⟨rfl, rfl⟩
theorem routeSet (f : Fields) : Statement (.routeSet f) := ⟨rfl, rfl⟩
theorem fltCutoff (f : Fields) (d : F64) : Statement (.fltCutoff f d) := ⟨rfl, rfl⟩
theorem fltRes (f : Fields) (d : F64) : Statement (.fltRes f d) := ⟨rfl, rfl⟩
theorem fltPoles (f : Fields) : Statement (.fltPoles f) := ⟨rfl, rfl⟩
theorem fltMode (f : Fields) : Statement (.fltMode f) := ⟨rfl, rfl⟩
theorem shpClipEn (f : Fields) : Statement (.shpClipEn f) := ⟨rfl, rfl⟩
theorem shpClipPos (f : Fields) (d : F64) : Statement (.shpClipPos f d) := ⟨rfl, rfl⟩
theorem shpClipNeg (f : Fields) (d : F64) : Statement (.shpClipNeg f d) := ⟨rfl, rfl⟩
theorem shpCrush (f : Fields) : Statement (.shpCrush f) := ⟨rfl, rfl⟩
theorem mixMaster (f : Fields) (d : F64) : Statement (.mixMaster f d) := ⟨rfl, rfl⟩
theorem noteOn (f : Fields) : Statement (.noteOn f) := ⟨rfl, rfl⟩
theorem noteOff (f : Fields) : Statement (.noteOff f) := ⟨rfl, rfl⟩
theorem frame (f : Fields) : Statement (.frame f) := ⟨rfl, rfl⟩
theorem timeSet (f : Fields) (d : F64) : Statement (.timeSet f d) := ⟨rfl, rfl⟩
theorem read (f : Fields) : Statement (.read f) := ⟨rfl, rfl⟩
theorem statusClr (f : Fields) : Statement (.statusClr f) := ⟨rfl, rfl⟩
theorem softReset (f : Fields) : Statement (.softReset f) := ⟨rfl, rfl⟩

end Sys2Proof.Laws.WordCount
end

