-- ==== Sys2Proof/Machine/Assembler.lean ====
section
/-! DEFINITION. The assembler syntax of rule R90 and the pseudo-instructions of rule R91: from a line of
text to the words it stands for. The assembler is the host's tool; the machine does not use it. -/

namespace Sys2Proof.Asm

open Sys2Proof.Machine

abbrev Text := List Char

/-! ### Lexing -/

def isSpace (c : Char) : Bool := c = ' ' || c = '\t'

def trim (t : Text) : Text := ((t.dropWhile isSpace).reverse.dropWhile isSpace).reverse

/-- The parts of a text between commas. -/
def splitComma : Text → List Text
  | [] => [[]]
  | c :: rest =>
    if c = ',' then [] :: splitComma rest
    else match splitComma rest with
      | [] => [[c]]
      | part :: parts => (c :: part) :: parts

/-- The value of a hexadecimal digit. -/
def digit (c : Char) : Option Nat :=
  if '0' ≤ c ∧ c ≤ '9' then some (c.toNat - '0'.toNat)
  else if 'a' ≤ c ∧ c ≤ 'f' then some (c.toNat - 'a'.toNat + 10)
  else if 'A' ≤ c ∧ c ≤ 'F' then some (c.toNat - 'A'.toNat + 10)
  else none

/-- A nonempty run of digits of a base. -/
def digits (base : Nat) (t : Text) : Option Nat :=
  if t = [] then none
  else t.foldlM (fun n c => do
    let d ← digit c
    if d < base then some (base * n + d) else none) 0

/-- The rest of a text after the given beginning, none where it begins otherwise. -/
def after : Text → Text → Option Text
  | [], t => some t
  | c :: cs, d :: ds => if c = d then after cs ds else none
  | _ :: _, [] => none

/-- A text without its minus sign, and whether it had one. -/
def unsign (t : Text) : Bool × Text :=
  match after ['-'] t with
  | some rest => (true, rest)
  | none => (false, t)

/-- A 0x-hexadecimal number. -/
def hexLit (t : Text) : Option Nat := (after ['0', 'x'] t).bind (digits 16)

/-- A decimal or 0x-hexadecimal number. -/
def natLit (t : Text) : Option Nat := (hexLit t).or (digits 10 t)

/-- An integer; that a minus sign may stand before any integer operand is the model's choice (log entry
12: R90 shows one for *octave*). -/
def intLit (t : Text) : Option Int :=
  (natLit (unsign t).2).map fun n => if (unsign t).1 then -(n : Int) else (n : Int)

/-- `n * 10^k`, rounded to the nearest binary64, ties to even. -/
def decimal (n : Nat) (k : Int) : F64 :=
  F64.roundRatio false (n * 10 ^ k.toNat * F64.oneUnits) (10 ^ (-k).toNat)

/-- A decimal floating literal without its sign: digits, a point, an exponent. -/
def unsignedFloat (t : Text) : Option F64 := do
  let m := t.takeWhile fun c => c ≠ 'e' && c ≠ 'E'
  let ip := m.takeWhile (· ≠ '.')
  let fp := m.drop (ip.length + 1)
  let ex := (t.drop m.length).drop 1
  let e ← if m.length = t.length then some 0
    else (digits 10 ((after ['+'] ex).getD (unsign ex).2)).map fun n =>
      if (unsign ex).1 then -(n : Int) else (n : Int)
  let n ← digits 10 (ip ++ fp)
  some (decimal n (e - fp.length))

/-- *D* (rule R90): a decimal floating literal, or `bits:0x` and 16 hexadecimal digits. -/
def floatLit (t : Text) : Option F64 :=
  match after ("bits:0x".toList) t with
  | some rest => if rest.length = 16 then (digits 16 rest).map F64.ofBits else none
  | none => (unsignedFloat (unsign t).2).map fun x => if (unsign t).1 then F64.neg x else x

/-! ### Operand spellings (rule R90) -/

/-- The place of a name in a list of names. -/
def nameIn (names : List String) (t : Text) : Option Nat :=
  names.findIdx? fun n => decide (n.toList = t)

def oscNames : List String := ["osc1", "osc2", "osc3"]
def srcNames : List String := ["osc1", "osc2", "osc3", "filter", "env"]
def routeNames : List String :=
  ["pitch1", "pitch2", "pitch3", "amp1", "amp2", "amp3", "fin", "fcut", "mix"]
def chNames : List String := ["ch0", "ch1", "ch2", "ch3"]
def kindNames : List String := ["sine", "square", "saw", "triangle", "noise"]
def flagNames : List String := ["off", "on"]
def modeNames : List String := ["svf", "bqlp", "bqhp"]

/-- A decimal numeral below 100. -/
def numeral (n : Nat) : String :=
  if n < 10 then (Nat.digitChar n).toString
  else (Nat.digitChar (n / 10)).toString ++ (Nat.digitChar (n % 10)).toString

def oscRegName : OscReg → String
  | .wave => "WAVE"
  | .volume => "VOLUME"
  | .amp => "AMP"
  | .freq => "FREQ"
  | .fine => "FINE"
  | .octave => "OCTAVE"
  | .drone => "DRONE"
  | .lfo => "LFO"
  | .fm => "FM"

def envRegName : EnvReg → String
  | .attack => "ENV.ATTACK"
  | .decay => "ENV.DECAY"
  | .sustain => "ENV.SUSTAIN"
  | .release => "ENV.RELEASE"
  | .flags => "ENV.FLAGS"
  | .nOn => "ENV.N_ON"
  | .nOff => "ENV.N_OFF"
  | .aOff => "ENV.A_OFF"

def fltRegName : FltReg → String
  | .cutoff => "FLT.CUTOFF"
  | .res => "FLT.RES"
  | .poles => "FLT.POLES"
  | .mode => "FLT.MODE"
  | .clipEn => "SHP.CLIP_EN"
  | .clipPos => "SHP.CLIP_POS"
  | .clipNeg => "SHP.CLIP_NEG"
  | .crush => "SHP.CRUSH"

def chanRegName : ChanReg → String
  | .bqS1 => "BQ_S1"
  | .bqS2 => "BQ_S2"
  | .svf0Ic1 => "SVF0_IC1"
  | .svf0Ic2 => "SVF0_IC2"
  | .svf1Ic1 => "SVF1_IC1"
  | .svf1Ic2 => "SVF1_IC2"
  | .hpS1 => "HP_S1"
  | .hpS2 => "HP_S2"
  | .fprev => "FPREV"
  | .outNum => "OUT_NUM"
  | .outPcm => "OUT_PCM"

/-- A register's name in an assembly text; oscillators count from 1, every other index from 0. -/
def regName : Reg → String
  | .osc i r => "OSC" ++ numeral (i + 1) ++ "." ++ oscRegName r
  | .gain i k => "OSC" ++ numeral (i + 1) ++ ".GAIN" ++ numeral k
  | .env r => envRegName r
  | .route s => "ROUTE" ++ numeral s
  | .flt r => fltRegName r
  | .master => "MIX.MASTER"
  | .chan c r => "CH" ++ numeral c ++ "." ++ chanRegName r
  | .time => "T"
  | .frameCount => "N"
  | .status => "STATUS"
  | .heldCount => "HELD_COUNT"
  | .held k => "HELD" ++ numeral k
  | .cfgFs => "CFG.FS"
  | .cfgNch => "CFG.NCH"
  | .cfgMaxNotes => "CFG.MAX_NOTES"

def oscAll : List Reg := ([0, 1, 2] : List (Fin 3)).flatMap fun i => oscRegs.map (Reg.osc i)

def gainAll : List Reg :=
  ([0, 1, 2] : List (Fin 3)).flatMap fun i => ([0, 1, 2, 3] : List (Fin 4)).map (Reg.gain i)

def chanAll : List Reg := ([0, 1, 2, 3] : List (Fin 4)).flatMap fun c => chanRegs.map (Reg.chan c)

def routeAll : List Reg := ([0, 1, 2, 3, 4] : List (Fin 5)).map Reg.route

def singles : List Reg :=
  [.master, .time, .frameCount, .status, .heldCount, .cfgFs, .cfgNch, .cfgMaxNotes]

/-- Every register an assembly text can name. DESIGN CHOICE (log entry 12): the names of the channels 0 to 3 and
of the held-note slots 0 to 15 assemble for every block, whatever its NCH and MAX_NOTES. -/
def allRegs : List Reg :=
  List.flatten [oscAll, gainAll, envRegs.map Reg.env, routeAll, fltRegs.map Reg.flt, chanAll, singles,
    (List.range 16).map Reg.held]

/-- *addr*: a 0x-hexadecimal address or a register name, and no other integer (R90). -/
def addrLit (t : Text) : Option Int :=
  match hexLit t with
  | some n => some (n : Int)
  | none => (allRegs.find? fun r => decide ((regName r).toList = t)).map fun r => (r.addr : Int)

/-- The operand forms of an assembly line, in the order A, B, IMM, D. -/
inductive Slot where
  | osc | src | ch | route | kind | flag | mode | int | addr | num
deriving DecidableEq, Repr

/-- A name of the list, else an integer. -/
def nameOrInt (names : List String) (t : Text) : Option Int :=
  match nameIn names t with
  | some n => some (n : Int)
  | none => intLit t

/-- The integer an index or immediate operand stands for. -/
def slotValue : Slot → Text → Option Int
  | .osc, t => (nameIn oscNames t).map Int.ofNat
  | .src, t => (nameIn srcNames t).map Int.ofNat
  | .route, t => (nameIn routeNames t).map Int.ofNat
  | .ch, t => do
    let n ← nameOrInt chNames t
    if 0 ≤ n ∧ n ≤ 15 then some n else none
  | .kind, t => nameOrInt kindNames t
  | .flag, t => nameOrInt flagNames t
  | .mode, t => nameOrInt modeNames t
  | .int, t => intLit t
  | .addr, t => addrLit t
  | .num, _ => none

/-- The operands read so far. -/
structure Operands where
  fields : Fields
  data : F64
deriving DecidableEq, Repr

/-- An immediate as 16 bits; one that does not fit is no assembly (log entry 12). -/
def immediate (n : Int) : Option (BitVec 16) :=
  if -0x8000 ≤ n ∧ n ≤ 0xFFFF then some (BitVec.ofInt 16 n) else none

/-- Read one operand into its field. -/
def putOperand (o : Operands) (slot : Slot) (t : Text) : Option Operands :=
  match slot with
  | .osc | .src => (slotValue slot t).map fun n => { o with fields.a := BitVec.ofInt 4 n }
  | .ch | .route => (slotValue slot t).map fun n => { o with fields.b := BitVec.ofInt 4 n }
  | .kind | .flag | .mode | .int | .addr =>
    ((slotValue slot t).bind immediate).map fun n => { o with fields.imm := n }
  | .num => (floatLit t).map fun d => { o with data := d }

/-- Read the operands of a line; their number must be right. -/
def readOperands : Operands → List Slot → List Text → Option Operands
  | o, [], [] => some o
  | o, slot :: slots, t :: ts => do
    let o' ← putOperand o slot t
    readOperands o' slots ts
  | _, _, _ => none

/-- A mnemonic with its opcode and operands. -/
structure Row where
  mnemonic : String
  op : Nat
  slots : List Slot

/-- The oscillator rows (rules R85, R90). -/
def oscRows : List Row :=
  [⟨"OSC_WAVE", 0x01, [.osc, .kind]⟩, ⟨"OSC_VOLUME", 0x02, [.osc, .num]⟩,
    ⟨"OSC_GAIN", 0x03, [.osc, .ch, .num]⟩, ⟨"OSC_FREQ", 0x04, [.osc, .num]⟩,
    ⟨"OSC_FINE", 0x05, [.osc, .num]⟩, ⟨"OSC_OCTAVE", 0x06, [.osc, .int]⟩,
    ⟨"OSC_DRONE", 0x07, [.osc, .flag]⟩, ⟨"OSC_LFO", 0x08, [.osc, .flag]⟩,
    ⟨"OSC_FM", 0x09, [.osc, .num]⟩, ⟨"OSC_AM", 0x0A, [.osc, .num]⟩]

/-- The envelope, matrix, filter, shaper and mixer rows. -/
def setterRows : List Row :=
  [⟨"ENV_ATTACK", 0x10, [.num]⟩, ⟨"ENV_DECAY", 0x11, [.num]⟩, ⟨"ENV_SUSTAIN", 0x12, [.num]⟩,
    ⟨"ENV_RELEASE", 0x13, [.num]⟩, ⟨"ROUTE_SET", 0x18, [.src, .route, .flag]⟩,
    ⟨"FLT_CUTOFF", 0x20, [.num]⟩, ⟨"FLT_RES", 0x21, [.num]⟩, ⟨"FLT_POLES", 0x22, [.int]⟩,
    ⟨"FLT_MODE", 0x23, [.mode]⟩, ⟨"SHP_CLIP_EN", 0x24, [.flag]⟩, ⟨"SHP_CLIP_POS", 0x25, [.num]⟩,
    ⟨"SHP_CLIP_NEG", 0x26, [.num]⟩, ⟨"SHP_CRUSH", 0x27, [.int]⟩, ⟨"MIX_MASTER", 0x28, [.num]⟩]

/-- The key event and control rows. -/
def controlRows : List Row :=
  [⟨"NOP", 0x00, []⟩, ⟨"NOTE_ON", 0x30, [.int]⟩, ⟨"NOTE_OFF", 0x31, [.int]⟩, ⟨"FRAME", 0x40, []⟩,
    ⟨"TIME_SET", 0x41, [.num]⟩, ⟨"READ", 0x50, [.addr]⟩, ⟨"STATUS_CLR", 0x51, [.int]⟩,
    ⟨"SOFT_RESET", 0x7F, []⟩]

/-- The mnemonics with their opcode and operands. -/
def rows : List Row := List.flatten [oscRows, setterRows, controlRows]

/-! ### Lines -/

/-- A mnemonic and its operands as written. -/
structure Line where
  mnemonic : Text
  operands : List Text
deriving DecidableEq, Repr

/-- A line of the text with its comment removed, none where nothing is left. -/
def lineOf (t : Text) : Option Line :=
  let body := trim (t.takeWhile (· ≠ ';'))
  if body = [] then none
  else
    let m := body.takeWhile fun c => !isSpace c
    let rest := trim (body.drop m.length)
    some ⟨m, if rest = [] then [] else (splitComma rest).map trim⟩

def lit (s : String) : Text := s.toList

/-- The pseudo-instructions of rule R91; every other line stands for itself. -/
def expand (l : Line) : Option (List Line) :=
  if l.mnemonic = lit "ROUTE_CLR" then
    some [⟨lit "ROUTE_SET", l.operands ++ [lit "off"]⟩]
  else if l.mnemonic = lit "ROUTE_MIX" then
    some [⟨lit "ROUTE_SET", l.operands ++ [lit "mix", lit "on"]⟩]
  else if l.mnemonic = lit "FRAMES" then
    match l.operands with
    | [n] => (natLit n).map fun k => List.replicate k ⟨lit "FRAME", []⟩
    | _ => none
  else if l.mnemonic = lit "STATUS_CLR_ALL" then
    some [⟨lit "STATUS_CLR", l.operands ++ [lit "0x1F"]⟩]
  else if l.mnemonic = lit "OSC_WAVE_ALL" then
    some (oscNames.map fun o => ⟨lit "OSC_WAVE", lit o :: l.operands⟩)
  else if l.mnemonic = lit "NOTE_TAP" then
    some [⟨lit "NOTE_ON", l.operands⟩, ⟨lit "NOTE_OFF", l.operands⟩]
  else some [l]

/-- The command of a line, after expansion. -/
def commandOf (l : Line) : Option Instr := do
  let row ← rows.find? fun r => decide (r.mnemonic.toList = l.mnemonic)
  let o ← readOperands ⟨⟨0#4, 0#4, 0#16⟩, F64.zero⟩ row.slots l.operands
  match opcodeMap (BitVec.ofNat 8 row.op) with
  | some (.h mk) => some (mk o.fields)
  | some (.hd mk) => some (mk o.fields o.data)
  | none => none

/-- The words of a line after expansion: a command's, or the raw word of `.word v`. -/
def wordsOf (l : Line) : Option (List Word) :=
  if l.mnemonic = lit ".word" then
    match l.operands with
    | [v] => (natLit v).bind fun n => if n < 2 ^ 32 then some [BitVec.ofNat 32 n] else none
    | _ => none
  else (commandOf l).map encode

/-- The words of one line of text, none where the line is no assembly. -/
def assembleLine (s : String) : Option (List Word) :=
  match lineOf s.toList with
  | none => some []
  | some l => do
    let ls ← expand l
    let ws ← ls.mapM wordsOf
    some ws.flatten

/-- The words of a program, line by line. -/
def assemble (lines : List String) : Option (List Word) := do
  let ws ← lines.mapM assembleLine
  some ws.flatten

end Sys2Proof.Asm
end

