-- ==== Sys2Proof/Tests/Slice0.lean ====
section
/-! SUPPORT. The model's own tests: expected values from the spec (its encodings, its examples and the
vectors of 95_test_vectors.md), each for one command or one function; and for every obligation with
hypotheses a witness that something meets them. -/

namespace Sys2Proof.Tests

open Sys2Proof Sys2Proof.Machine Sys2Proof.Claims

-- One theorem after another: every kernel check that waits for the ones before it holds a thread.
set_option Elab.async false

/-! ### Helpers -/

/-- The binary64 with this bit pattern. -/
abbrev num (b : Nat) : F64 := F64.ofBits b

/-- The fields of a header. -/
abbrev fld (a b imm : Nat) : Fields := ⟨BitVec.ofNat 4 a, BitVec.ofNat 4 b, BitVec.ofNat 16 imm⟩

/-- The words of a stream. -/
def stream (ws : List Nat) : List HostInput := ws.map fun w => .word (BitVec.ofNat 32 w)

/-- The state one step leaves when these words arrive in `s`. -/
def one (s : State) (ws : List Nat) : State :=
  match step { s with input := stream ws } with
  | .next t => t
  | _ => s

/-- The reset state with parameters that are all numerals: CUT_OCT 1.0, as 95_test_vectors.md takes it. -/
def params : Params := { Config.reference with cutOct := F64.one }

def start : State := State.resetWith params

/-! ### Well-formedness: one ill-formed command for each check, refused (rule R283) -/

theorem test_wf_nop_fields : Instr.wellFormed (.nop (fld 0 0 1)) = false := by decide
theorem test_wf_frame_fields : Instr.wellFormed (.frame (fld 1 0 0)) = false := by decide
theorem test_wf_softReset_fields : Instr.wellFormed (.softReset (fld 0 1 0)) = false := by decide
theorem test_wf_oscWave_kind : Instr.wellFormed (.oscWave (fld 0 0 5)) = false := by decide
theorem test_wf_oscWave_osc : Instr.wellFormed (.oscWave (fld 3 0 0)) = false := by decide
theorem test_wf_oscVolume_field : Instr.wellFormed (.oscVolume (fld 0 1 0) F64.one) = false := by decide
theorem test_wf_oscFreq_osc : Instr.wellFormed (.oscFreq (fld 3 0 0) F64.one) = false := by decide
theorem test_wf_oscFine_imm : Instr.wellFormed (.oscFine (fld 0 0 1) F64.one) = false := by decide
theorem test_wf_oscFm_osc : Instr.wellFormed (.oscFm (fld 15 0 0) F64.one) = false := by decide
theorem test_wf_oscAm_nonfinite : Instr.wellFormed (.oscAm (fld 0 0 0) (num 0x7FF0000000000000)) = false := by decide
theorem test_wf_oscGain_imm : Instr.wellFormed (.oscGain (fld 0 0 1) F64.one) = false := by decide
theorem test_wf_oscOctave_b : Instr.wellFormed (.oscOctave (fld 0 1 0)) = false := by decide
theorem test_wf_oscDrone_flag : Instr.wellFormed (.oscDrone (fld 0 0 2)) = false := by decide
theorem test_wf_oscLfo_flag : Instr.wellFormed (.oscLfo (fld 0 0 2)) = false := by decide
theorem test_wf_envAttack_a : Instr.wellFormed (.envAttack (fld 1 0 0) F64.one) = false := by decide
theorem test_wf_envDecay_b : Instr.wellFormed (.envDecay (fld 0 1 0) F64.one) = false := by decide
theorem test_wf_envSustain_imm : Instr.wellFormed (.envSustain (fld 0 0 1) F64.one) = false := by decide
theorem test_wf_envRelease_nan : Instr.wellFormed (.envRelease (fld 0 0 0) (num 0x7FF8000000000000)) = false := by decide
theorem test_wf_routeSet_src : Instr.wellFormed (.routeSet (fld 5 0 0)) = false := by decide
theorem test_wf_routeSet_route : Instr.wellFormed (.routeSet (fld 0 9 0)) = false := by decide
theorem test_wf_routeSet_flag : Instr.wellFormed (.routeSet (fld 0 0 2)) = false := by decide
theorem test_wf_fltCutoff_a : Instr.wellFormed (.fltCutoff (fld 1 0 0) F64.one) = false := by decide
theorem test_wf_fltRes_nonfinite : Instr.wellFormed (.fltRes (fld 0 0 0) (num 0xFFF0000000000000)) = false := by decide
theorem test_wf_fltPoles : Instr.wellFormed (.fltPoles (fld 0 0 3)) = false := by decide
theorem test_wf_fltMode : Instr.wellFormed (.fltMode (fld 0 0 3)) = false := by decide
theorem test_wf_shpClipEn : Instr.wellFormed (.shpClipEn (fld 0 0 2)) = false := by decide
theorem test_wf_shpClipPos_imm : Instr.wellFormed (.shpClipPos (fld 0 0 1) F64.one) = false := by decide
theorem test_wf_shpClipNeg_b : Instr.wellFormed (.shpClipNeg (fld 0 1 0) F64.one) = false := by decide
theorem test_wf_shpCrush : Instr.wellFormed (.shpCrush (fld 0 0 25)) = false := by decide
theorem test_wf_mixMaster_a : Instr.wellFormed (.mixMaster (fld 1 0 0) F64.one) = false := by decide
theorem test_wf_noteOn : Instr.wellFormed (.noteOn (fld 0 0 128)) = false := by decide
theorem test_wf_noteOff : Instr.wellFormed (.noteOff (fld 0 0 128)) = false := by decide
theorem test_wf_timeSet_imm : Instr.wellFormed (.timeSet (fld 0 0 1) F64.one) = false := by decide
theorem test_wf_read_a : Instr.wellFormed (.read (fld 1 0 0)) = false := by decide
theorem test_wf_statusClr : Instr.wellFormed (.statusClr (fld 0 0 0x20)) = false := by decide

/-! ### Decoding: words written out from the encodings of rule R85 -/

/-- What the decoder gives for the words of a stream. -/
def dec (ws : List Nat) : Option Instr :=
  match decode (ws.map fun w => BitVec.ofNat 32 w) with
  | .ok i => some i
  | .error _ => none

theorem test_decode_nop : dec [0x00000000] = some (.nop (fld 0 0 0)) := by decide
theorem test_decode_oscWave : dec [0x01100002] = some (.oscWave (fld 1 0 2)) := by decide
theorem test_decode_oscVolume :
    dec [0x02000000, 0x00000000, 0x3FE00000] = some (.oscVolume (fld 0 0 0) (num 0x3FE0000000000000)) := by decide
theorem test_decode_oscGain :
    dec [0x03030000, 0x00000000, 0x3FE00000] = some (.oscGain (fld 0 3 0) (num 0x3FE0000000000000)) := by decide
theorem test_decode_oscFreq :
    dec [0x04100000, 0x00000000, 0x406B8000] = some (.oscFreq (fld 1 0 0) (num 0x406B800000000000)) := by decide
theorem test_decode_oscFine :
    dec [0x05000000, 0x00000000, 0x40490000] = some (.oscFine (fld 0 0 0) (num 0x4049000000000000)) := by decide
theorem test_decode_oscOctave : dec [0x0610FFFF] = some (.oscOctave (fld 1 0 0xFFFF)) := by decide
theorem test_decode_oscDrone : dec [0x07000001] = some (.oscDrone (fld 0 0 1)) := by decide
theorem test_decode_oscLfo : dec [0x08200001] = some (.oscLfo (fld 2 0 1)) := by decide
theorem test_decode_oscFm :
    dec [0x09000000, 0x00000000, 0x3FF00000] = some (.oscFm (fld 0 0 0) F64.one) := by decide
theorem test_decode_oscAm :
    dec [0x0A000000, 0x00000000, 0x3FE00000] = some (.oscAm (fld 0 0 0) (num 0x3FE0000000000000)) := by decide
theorem test_decode_envAttack :
    dec [0x10000000, 0x00000000, 0x40240000] = some (.envAttack (fld 0 0 0) (num 0x4024000000000000)) := by decide
theorem test_decode_envDecay :
    dec [0x11000000, 0x00000000, 0xC0140000] = some (.envDecay (fld 0 0 0) (num 0xC014000000000000)) := by decide
theorem test_decode_envSustain :
    dec [0x12000000, 0x00000000, 0x40000000] = some (.envSustain (fld 0 0 0) (num 0x4000000000000000)) := by decide
theorem test_decode_envRelease :
    dec [0x13000000, 0x9999999A, 0x3FB99999] = some (.envRelease (fld 0 0 0) (num 0x3FB999999999999A)) := by decide
theorem test_decode_routeSet : dec [0x18430001] = some (.routeSet (fld 4 3 1)) := by decide
theorem test_decode_fltCutoff :
    dec [0x20000000, 0x00000000, 0x408F4000] = some (.fltCutoff (fld 0 0 0) (num 0x408F400000000000)) := by decide
theorem test_decode_fltRes :
    dec [0x21000000, 0x00000000, 0x40590000] = some (.fltRes (fld 0 0 0) (num 0x4059000000000000)) := by decide
theorem test_decode_fltPoles : dec [0x22000004] = some (.fltPoles (fld 0 0 4)) := by decide
theorem test_decode_fltMode : dec [0x23000002] = some (.fltMode (fld 0 0 2)) := by decide
theorem test_decode_shpClipEn : dec [0x24000001] = some (.shpClipEn (fld 0 0 1)) := by decide
theorem test_decode_shpClipPos :
    dec [0x25000000, 0x00000000, 0x40000000] = some (.shpClipPos (fld 0 0 0) F64.two) := by decide
theorem test_decode_shpClipNeg :
    dec [0x26000000, 0x00000000, 0x3FE00000] = some (.shpClipNeg (fld 0 0 0) (num 0x3FE0000000000000)) := by decide
theorem test_decode_shpCrush : dec [0x27000018] = some (.shpCrush (fld 0 0 24)) := by decide
theorem test_decode_mixMaster :
    dec [0x28000000, 0x00000000, 0x3FE00000] = some (.mixMaster (fld 0 0 0) (num 0x3FE0000000000000)) := by decide
theorem test_decode_noteOn : dec [0x30000039] = some (.noteOn (fld 0 0 57)) := by decide
theorem test_decode_noteOff : dec [0x3100003C] = some (.noteOff (fld 0 0 60)) := by decide
theorem test_decode_frame : dec [0x40000000] = some (.frame (fld 0 0 0)) := by decide
theorem test_decode_timeSet :
    dec [0x41000000, 0xD2F1A9FC, 0x3F50624D] = some (.timeSet (fld 0 0 0) (num 0x3F50624DD2F1A9FC)) := by decide
theorem test_decode_read : dec [0x50000509] = some (.read (fld 0 0 0x0509)) := by decide
theorem test_decode_statusClr : dec [0x5100001F] = some (.statusClr (fld 0 0 0x1F)) := by decide
theorem test_decode_softReset : dec [0x7F000000] = some (.softReset (fld 0 0 0)) := by decide

/-- An encoding written out from rules R81 and R82. -/
theorem test_encode_timeSet : encode (.timeSet (fld 0 0 0) (num 0x3F50624DD2F1A9FC)) =
    [0x41000000#32, 0xD2F1A9FC#32, 0x3F50624D#32] := by decide

/-- Rule R86: 0x0B is illegal, and its word is consumed alone. -/
theorem test_illegal_opcode :
    ((one start [0x0B000000, 0x00000000]).status, (one start [0x0B000000, 0x00000000]).input) =
      (0x01#5, stream [0x00000000]) := by decide +kernel

/-- Rule R65: the least significant byte of a word goes first. -/
theorem test_bytes : decodeBytes [0x02#8, 0x00#8, 0x10#8, 0x01#8] = .ok (.oscWave (fld 1 0 2)) := by decide

/-- Rule R70: a stream that ends inside a command changes nothing. -/
theorem test_waiting : (one start [0x04000000, 0x00000000]).input = stream [0x04000000, 0x00000000] := by
  decide +kernel

/-- Rule R302: a hardware reset discards the words before it. -/
theorem test_hardware_reset :
    (match step { start with input := stream [0x04000000] ++ [.reset] ++ stream [0] } with
      | .next t => t.input
      | _ => []) = stream [0] := by decide +kernel

/-! ### One step of each command: the vectors of 95_test_vectors.md L2.3 to L2.9 -/

theorem test_oscWave : ((one start [0x01100002]).osc[1]).wave = Wave.saw := by decide +kernel
theorem test_oscWave_refused :
    ((one start [0x01000005]).status, (one start [0x01000005]).osc[0].wave) =
      (0x02#5, Wave.sine) := by decide +kernel
theorem test_oscVolume :
    (((one start [0x02000000, 0, 0x3FE00000]).osc[0]).volume, ((one start [0x02000000, 0, 0x3FE00000]).osc[0]).amp) =
      (num 0x3FE0000000000000, num 0x3FE0000000000000) := by decide +kernel
theorem test_oscAm :
    (((one start [0x0A000000, 0, 0x3FE00000]).osc[0]).volume, ((one start [0x0A000000, 0, 0x3FE00000]).osc[0]).amp) =
      (F64.one, num 0x3FE0000000000000) := by decide +kernel
theorem test_oscGain_clamped :
    ((one start [0x03090000, 0, 0x3FE00000]).osc[0]).gain =
      #v[F64.one, F64.one, F64.one, num 0x3FE0000000000000] := by decide +kernel
theorem test_oscFreq_nan :
    ((one start [0x04000000, 0, 0x7FF80000]).status, ((one start [0x04000000, 0, 0x7FF80000]).osc[0]).freq) =
      (0x04#5, num 0x407B800000000000) := by decide +kernel
theorem test_oscFreq_order : (one start [0x04010000, 0, 0x7FF80000]).status = 0x02#5 := by decide +kernel
theorem test_oscFreq_negZero :
    ((one start [0x04000000, 0, 0x80000000]).osc[0]).freq =
      num 0x8000000000000000 := by decide +kernel
theorem test_oscFine :
    ((one start [0x05000000, 0, 0x40490000]).osc[0]).fine =
      num 0x4049000000000000 := by decide +kernel
theorem test_oscOctave_negative : ((one start [0x0610FFFF]).osc[1]).octave = -1 := by decide +kernel
theorem test_oscOctave_clamped :
    (((one start [0x06000007]).osc[0]).octave, ((one start [0x06008000]).osc[0]).octave) =
      (4, -4) := by decide +kernel
theorem test_oscDrone : ((one start [0x07000001]).osc[0]).drone = true := by decide +kernel
theorem test_oscLfo : ((one start [0x08200001]).osc[2]).lfo = true := by decide +kernel
theorem test_oscFm : ((one start [0x09000000, 0, 0x3FF00000]).osc[0]).fm = F64.one := by decide +kernel
theorem test_envAttack_clamped :
    ((one start [0x10000000, 0, 0xC0140000]).env.attack, (one start [0x10000000, 0, 0xC0140000]).status) =
      (F64.zero, 0#5) := by decide +kernel
theorem test_envDecay :
    (one start [0x11000000, 0, 0x40340000]).env.decay =
      num 0x4034000000000000 := by decide +kernel
theorem test_envSustain_clamped :
    ((one start [0x12000000, 0, 0x40000000]).env.sustain, (one start [0x12000000, 0, 0xBFF00000]).env.sustain) =
      (F64.one, F64.zero) := by decide +kernel
theorem test_envRelease :
    (one start [0x13000000, 0x9999999A, 0x3FB99999]).env.release =
      num 0x3FB999999999999A := by decide +kernel
theorem test_routeSet_mixer :
    (one { start with route := start.route.set 0 0x04B#9 } [0x18080001]).route[0] =
      0x100#9 := by decide +kernel
theorem test_routeSet_keeps :
    (one { start with route := start.route.set 0 0x100#9 } [0x18010001]).route[0] =
      0x102#9 := by decide +kernel
theorem test_fltCutoff :
    (one start [0x20000000, 0, 0x409F4000]).flt.cutoff =
      num 0x409F400000000000 := by decide +kernel
theorem test_fltRes_clamped :
    ((one start [0x21000000, 0, 0x40590000]).flt.res, (one start [0x21000000, 0, 0]).flt.res) =
      (num 0x4034000000000000, num 0x3FE0000000000000) := by decide +kernel
theorem test_fltPoles : (one start [0x22000004]).flt.poles = Poles.four := by decide +kernel
theorem test_fltPoles_refused :
    ((one start [0x22000003]).flt.poles, (one start [0x22000003]).status) =
      (Poles.two, 0x02#5) := by decide +kernel
theorem test_fltMode : (one start [0x23000002]).flt.mode = FltMode.bqHp := by decide +kernel
theorem test_shpClipEn : (one start [0x24000001]).shp.clipEn = true := by decide +kernel
theorem test_shpClipPos :
    (one start [0x25000000, 0, 0x40000000]).shp.clipPos =
      F64.two := by decide +kernel
theorem test_shpClipNeg :
    (one start [0x26000000, 0, 0x3FE00000]).shp.clipNeg =
      num 0x3FE0000000000000 := by decide +kernel
theorem test_shpCrush :
    ((one start [0x27000018]).shp.crush, (one start [0x27000019]).status) =
      (24, 0x02#5) := by decide +kernel
theorem test_mixMaster :
    (one start [0x28000000, 0, 0x3FE00000]).master =
      num 0x3FE0000000000000 := by decide +kernel
theorem test_noteOn :
    ((one { start with N := 7 } [0x30000039]).held, (one { start with N := 7 } [0x30000039]).env.active,
      (one { start with N := 7 } [0x30000039]).env.nOn) =
      ([57#7], true, 7#64) := by decide +kernel
theorem test_noteOn_full :
    ((one { start with held := [1, 2], cfg := { params with maxNotes := 2 } } [0x30000003]).held,
      (one { start with held := [1, 2], cfg := { params with maxNotes := 2 } } [0x30000003]).status) =
      ([1#7, 2#7], 0x08#5) := by decide +kernel
theorem test_noteOff :
    ((one { start with held := [57, 60] } [0x31000039]).held,
      (one { start with held := [57, 60] } [0x31000039]).env.released) =
      ([60#7], false) := by decide +kernel
theorem test_noteOff_last :
    ((one { start with held := [60], N := 5 } [0x3100003C]).env.released,
      (one { start with held := [60], N := 5 } [0x3100003C]).env.nOff) =
      (true, 5#64) := by decide +kernel
theorem test_frame_time :
    ((one start [0x40000000]).T, (one start [0x40000000]).N, (one start [0x40000000]).status) =
      (num 0x3EF7C6F8C751F177, 1#64, 0#5) := by decide +kernel
theorem test_timeSet :
    (one start [0x41000000, 0xD2F1A9FC, 0x3F50624D]).T =
      num 0x3F50624DD2F1A9FC := by decide +kernel
theorem test_read : (one start [0x50000003]).responses = [0x407B800000000000#64] := by decide +kernel
theorem test_read_unmapped :
    ((one start [0x50000520]).responses, (one start [0x50000520]).status) =
      ([0#64], 0x10#5) := by decide +kernel
theorem test_read_octave :
    (one (one start [0x06008000]) [0x50000005]).responses =
      [0xFFFFFFFFFFFFFFFC#64] := by decide +kernel
theorem test_read_emptySlot :
    ((one start [0x50000610]).responses, (one start [0x50000610]).status) =
      ([0xFFFFFFFFFFFFFFFF#64], 0#5) := by decide +kernel
theorem test_statusClr :
    (one { start with status := 0x03#5 } [0x51000001]).status =
      0x02#5 := by decide +kernel
theorem test_statusClr_refused :
    (one { start with status := 0x01#5 } [0x51000020]).status =
      0x03#5 := by decide +kernel
theorem test_softReset :
    ((one { start with status := 1, T := F64.one } [0x7F000000]).status,
      (one { start with status := 1, T := F64.one } [0x7F000000]).T) =
      (0#5, F64.zero) := by decide +kernel
theorem test_nop_refused : (one start [0x00000001]).status = 0x02#5 := by decide +kernel

/-! ### The envelope (L1.2, L2.3: ATTACK 10, DECAY 20, SUSTAIN 0.5, RELEASE 100) -/

def env : Env :=
  { Reset.env with
    attack := num 0x4024000000000000, decay := num 0x4034000000000000, sustain := num 0x3FE0000000000000,
    release := num 0x4059000000000000, active := true }

theorem test_env_attack : envAmp params.fs env 220 = num 0x3FDFED6C8DA447FB := by decide +kernel
theorem test_env_boundary : envAmp params.fs env 1323 = num 0x3FE0000000000001 := by decide +kernel

/-- Release from A_OFF 0.5 at N_OFF 5000: 0.25 at 7205; at 9410 it is 0.0 and done. -/
theorem test_env_release :
    (envAmp params.fs { env with released := true, nOff := 5000, aOff := num 0x3FE0000000000000 } 7205,
      envDone params.fs { env with released := true, nOff := 5000, aOff := num 0x3FE0000000000000 } 9410) =
      (num 0x3FD0000000000000, true) := by decide +kernel

/-- Auto-release: ATTACK 10, DECAY 0, SUSTAIN 0, RELEASE 10, at frame 661. -/
theorem test_env_autoRelease :
    envAmp params.fs
      { env with decay := F64.zero, sustain := F64.zero, release := num 0x4024000000000000 } 661 =
      num 0x3FE00949B92DDC02 := by decide +kernel

/-! ### The oscillator (L2.2), with constant functions where a transcendental function is called -/

/-- Open functions that answer constants: the values the reference functions give in one example. -/
def consts (s c t a : F64) : Fns where
  fsin := fun _ => s
  fcos := fun _ => c
  ftan := fun _ => t
  fasin := fun x => if x = F64.one then F64.halfPi else x
  fatan := fun _ => a
  fexp2 := fexp2
  draw := fun _ => num 0x3FE0000000000000

def stub : Fns := consts F64.zero F64.one F64.one F64.one

theorem test_saw : sawOf F64.one (num 0x3FD0000000000000) = F64.zero := by decide +kernel
theorem test_saw_negative : sawOf (num 0xC059000000000000) (num 0x3F647AE147AE147B) = num 0xC00921FB54442D18 := by
  decide +kernel
theorem test_saw_negativeTime : sawOf F64.one (num 0xBFD0000000000000) = num 0xC00921FB54442D18 := by
  decide +kernel
theorem test_square_tie : squareOf .minusOne (num 0x8000000000000000) = F64.negOne := by decide +kernel
theorem test_triangle :
    (rawWave (consts F64.one F64.zero F64.zero F64.zero) .minusOne { Reset.osc with wave := .triangle }
      F64.one (num 0x3FD0000000000000) 0).1 = num 0x3FF921FB54442D18 := by decide +kernel
theorem test_noise :
    play stub .minusOne
      { Reset.osc with wave := .noise, amp := F64.two, gain := Reset.osc.gain.set 0 (num 0x3FE0000000000000) }
      F64.one F64.zero 0 3 = (num 0x3FE0000000000000, 4) := by decide +kernel

/-- L1.7: id 57 an octave down is index 45, 220.0 Hz; id 100 an octave up is skipped. -/
theorem test_noteFreq :
    (noteFreq params { Reset.osc with octave := -1 } 57, noteFreq params { Reset.osc with octave := 1 } 100) =
      (some (num 0x406B800000000000), none) := by decide +kernel

/-- Rule R129: every entry of the reference SCALE is the binary64 nearest to `440 * 2^((k - 57)/12)`. With
the entry `m * 2^x` (`m` of 53 bits) this says `(m - 1/2)^12 < 440^12 * 2^(k - 57) / 2^(12 x) < (m + 1/2)^12`. -/
theorem test_scale_nearest :
    (Config.scaleRef.zipIdx).all (fun fk =>
      let m := 2 ^ 52 + fk.1.frac
      let x := 12 * (fk.1.expo - 2) + 57
      decide ((2 * m - 1) ^ 12 * 2 ^ x < 440 ^ 12 * 2 ^ (1074 * 12 + fk.2)) &&
        decide (440 ^ 12 * 2 ^ (1074 * 12 + fk.2) < (2 * m + 1) ^ 12 * 2 ^ x)) = true := by
  decide +kernel

theorem test_scale_length : Config.scaleRef.length = 108 := by decide

/-! ### Filters and shapers (L2.4, L2.5) -/

/-- The reference sine and cosine at `w0` of 1000 Hz, and the tangent `g`. -/
def at1000 : Fns :=
  consts (num 0x3FC22CDEABEC443D) (num 0x3FEFACFE8CDED93F) (num 0x3FB24490009BF7B0) F64.zero

def lp1000 : Coef := bqCoef at1000 params.fs .lp (num 0x408F400000000000) F64.hpfQ

theorem test_bqCoef_lp : lp1000 =
    ⟨num 0x3F72DBA46E18CD80, num 0x3F82DBA46E18CD80, num 0x3F72DBA46E18CD80,
      num 0xBFFCC9195111671C, num 0x3FEA290FC59394A5⟩ := by decide +kernel

theorem test_bqCoef_hp : (bqCoef at1000 params.fs .hp (num 0x408F400000000000) F64.hpfQ).b1 =
    num 0xBFFCEED099ED98B8 := by decide +kernel

theorem test_bqStep :
    (bqStep lp1000 (bqStep lp1000 Reset.cells F64.one).2 F64.zero).1 = num 0x3F91E92B6D505E64 := by
  decide +kernel

theorem test_svf : (svfStep at1000 params.fs (num 0x408F400000000000) F64.hpfQ
      (svfStep at1000 params.fs (num 0x408F400000000000) F64.hpfQ Reset.cells F64.one).2 F64.one).1 =
    num 0x3F96A01488D691C3 := by decide +kernel

theorem test_svf_cascade :
    (svfCascade at1000 params.fs { Reset.flt with poles := .four } (num 0x408F400000000000) F64.one Reset.chan).1 =
      num 0x3EF639F923978949 := by decide +kernel

/-- `FATAN(1.0)` is pi/4: the clip of 1.0, and of -0.5 with CLIP_NEG 2.0 (`FATAN` is odd). -/
theorem test_softClip :
    (softClip (consts F64.zero F64.zero F64.zero (num 0x3FE921FB54442D18)) Reset.shp F64.one,
      softClip (consts F64.zero F64.zero F64.zero (num 0xBFE921FB54442D18))
        { Reset.shp with clipNeg := F64.two } (num 0xBFE0000000000000)) =
      (num 0x3FE0000000000000, num 0xBFE0000000000000) := by decide +kernel

theorem test_bitCrush_away : bitCrush openFns 3 (num 0xBFD8000000000000) = num 0xBFE0000000000000 := by decide +kernel
/-- A NaN passes unchanged, its payload too (R188). -/
theorem test_bitCrush_nan : bitCrush openFns 3 (num 0xFFF8000000000123) = num 0xFFF8000000000123 := by decide +kernel
theorem test_bitCrush_24 : bitCrush openFns 24 (num 0x3FE6666666666666) = num 0x3FE6666680000000 := by
  decide +kernel

/-! ### The pass (L2.6) -/

/-- The reference sine at the four arguments of the worked example, and the cosine of the output high-pass. -/
def example1 : Fns :=
  { consts F64.zero (num 0x3FEFFFECD7D80A66) (num 0x3FB24490009BF7B0) F64.zero with
    fsin := fun x =>
      if x = num 0x40061DE768DFD5C4 then num 0x3FD78F5A48A8A915
      else if x = num 0x3FF61DE768DFD5C4 then num 0x3FEF6EE5AC2509FF
      else if x = num 0x405BB43C9B36D345 then num 0xBFE842AF22C1BB94
      else num 0x3F7181E3A87ACBE2 }

/-- Osc2 a drone at 220 Hz routed to Osc1's pitch, Osc1 a drone routed to the mixer, T = 0.001. -/
def example1State : State :=
  { start with
    T := num 0x3F50624DD2F1A9FC
    osc := #v[{ Reset.osc with drone := true },
      { Reset.osc with drone := true, freq := num 0x406B800000000000 }, Reset.osc]
    route := #v[0x100#9, 0x001#9, 0#9, 0#9, 0#9] }

theorem test_pass_fm : ((compose example1 F64.zero example1State 0).2.osc[0]).fm =
    num 0x405B034D5FEFD497 := by decide +kernel

theorem test_pass_output : (compose example1 F64.zero example1State 0).1 =
    num 0xBFE82FF104DF16A5 := by decide +kernel

theorem test_pass_pcm : pcm (num 0xBFE82FF104DF16A5) = BitVec.ofInt 16 (-24767) := by decide +kernel

theorem test_pcm : [num 0x3FE0000000000000, num 0xBFEFFFEB074A771D, num 0x4000000000000000,
      num 0xFFF0000000000000, num 0x3EFFFF6E47C536A8, num 0x7FF8000000000000].map pcmInt =
    [16383, -32766, 32767, -32767, 0, 0] := by decide +kernel

/-- FC with one source of -1.0 is 500.0; with the sum 10.0 it is clamped to 22000.0 (CUT_OCT 1.0). -/
def cutoffOf (v : F64) : F64 :=
  effectiveCutoff openFns
    (ctxOf { start with route := start.route.set 0 0x080#9 } F64.zero 0) Reset.cutoff #v[v, v, v]

theorem test_cutoff : (cutoffOf F64.negOne, cutoffOf (num 0x4024000000000000)) = (num 0x407F400000000000, Config.fcMax) := by
  decide +kernel

/-- A NaN is clamped to FC_MIN. -/
theorem test_cutoff_nan : F64.clamp (num 0x7FF8000000000000) Config.fcMin Config.fcMax = num 0x403E000000000000 := by
  decide +kernel

/-! ### Numbers (rules R8, R9) -/

theorem test_constants : (F64.twoPi, F64.halfPi, F64.twoOverPi) =
    (num 0x401921FB54442D18, num 0x3FF921FB54442D18, num 0x3FE45F306DC9C883) := by decide +kernel
theorem test_add_rounds : F64.add (num 0x3FB999999999999A) (num 0x3FC999999999999A) = num 0x3FD3333333333334 := by decide +kernel
theorem test_div_subnormal : F64.div (num 0x0000000000000001) F64.two = F64.zero := by decide +kernel
theorem test_mul_overflow : F64.mul (num 0x7E37E43C8800759C) (num 0xFE37E43C8800759C) = num 0xFFF0000000000000 := by
  decide +kernel
theorem test_fmod_sign : F64.fmod (num 0xC016000000000000) F64.two = num 0xBFF8000000000000 := by decide +kernel

/-! ### Assembly (rules R90, R91) -/

/-- An address is hexadecimal; a decimal or negative one is no assembly. -/
theorem test_asm_address :
    (Asm.assembleLine "READ 0x0003", Asm.assembleLine "READ 3", Asm.assembleLine "READ -0x0003") =
      (some [0x50000003#32], none, none) := by decide +kernel

theorem test_asm_1 :
    Asm.assembleLine "OSC_FREQ osc1, 440.0" =
      some [0x04000000#32, 0x00000000#32, 0x407B8000#32] := by decide +kernel
theorem test_asm_2 :
    Asm.assembleLine "ROUTE_SET osc1, mix, on" =
      some [0x18080001#32] := by decide +kernel
theorem test_asm_3 : Asm.assembleLine "OSC_OCTAVE osc2, -1" = some [0x0610FFFF#32] := by decide +kernel
theorem test_asm_4 :
    Asm.assembleLine "READ CH0.OUT_NUM  ; a name" =
      some [0x50000509#32] := by decide +kernel
theorem test_asm_5 :
    Asm.assembleLine "TIME_SET 0.001" =
      some [0x41000000#32, 0xD2F1A9FC#32, 0x3F50624D#32] := by decide +kernel
theorem test_asm_6 : Asm.assembleLine "ROUTE_MIX filter" = some [0x18380001#32] := by decide +kernel
theorem test_asm_7 :
    Asm.assembleLine "NOTE_TAP 57" =
      some [0x30000039#32, 0x31000039#32] := by decide +kernel
theorem test_asm_8 :
    Asm.assembleLine "FRAMES 2" =
      some [0x40000000#32, 0x40000000#32] := by decide +kernel
theorem test_asm_9 :
    Asm.assembleLine "OSC_WAVE_ALL saw" =
      some [0x01000002#32, 0x01100002#32, 0x01200002#32] := by decide +kernel
theorem test_asm_10 : Asm.assembleLine "STATUS_CLR_ALL" = some [0x5100001F#32] := by decide +kernel
theorem test_asm_11 : Asm.assembleLine "ROUTE_CLR env, amp1" = some [0x18430000#32] := by decide +kernel
theorem test_asm_12 : Asm.assembleLine ".word 0x0B000000" = some [0x0B000000#32] := by decide +kernel

/-! ### Fetching a table word -/

theorem test_tableWord : decodeTableWord 96 0x407B80000000000004000000 =
    some (.oscFreq (fld 0 0 0) (num 0x407B800000000000)) := by decide +kernel

theorem test_withFetchWord :
    (match step (start.withFetchWord 32 0x01100002) with
      | .next t => (t.osc[1].wave, t.input)
      | _ => (Wave.sine, stream [1])) = (Wave.saw, []) := by decide +kernel

/-! ### Witnesses: something meets the hypotheses of each obligation, clause by clause -/

/-- A number that is not finite. -/
abbrev inf : F64 := num 0x7FF0000000000000

theorem witness_DecodeAndEncodeAgree :
    (∃ i, decode [0x01100002#32, 7#32] = .ok i ∧ i.words = 1) ∧
    (∃ i, decode [0x04000000#32, 0#32, 0x407B8000#32] = .ok i ∧ i.words = 3) :=
  ⟨⟨.oscWave (fld 1 0 2), by decide⟩, ⟨.oscFreq (fld 0 0 0) (num 0x407B800000000000), by decide⟩⟩

/-- The ends of each range of illegal opcodes. -/
theorem witness_IllegalOpcodesRaiseAndConsumeOneWord :
    (∀ op ∈ [0x0B, 0x0F, 0x14, 0x17, 0x19, 0x1F, 0x29, 0x2F, 0x32, 0x3F, 0x42, 0x4F, 0x52, 0x7E, 0x80, 0xFF],
      illegalOp op ∧ opcodeMap (BitVec.ofNat 8 op) = none) ∧
    { start with input := stream [0x0B000000] }.input = .word 0x0B000000#32 :: [] ∧
    illegalOp ((0x0B000000#32).extractLsb' 24 8).toNat := by
  refine ⟨?_, rfl, by simp [illegalOp]⟩
  intro op h
  simp only [List.mem_cons, List.not_mem_nil, or_false] at h
  rcases h with h | h | h | h | h | h | h | h | h | h | h | h | h | h | h | h <;> subst h <;>
    exact ⟨by simp [illegalOp], rfl⟩

theorem witness_StepExecutesTheDecodedCommand :
    decode (leadingWords (stream [0x01100002, 0])) = .ok (.oscWave (fld 1 0 2)) ∧
    stream [0x01100002, 0] = (encode (.oscWave (fld 1 0 2))).map .word ++ stream [0] := by decide

theorem witness_CutStreamLeavesTheBlockWaiting :
    Cut [] ∧ Cut [0x04000000#32] ∧ Cut [0x41000000#32, 5#32] ∧
    { start with input := stream [0x04000000] }.input = [0x04000000#32].map .word :=
  ⟨.inl rfl, .inr ⟨0x04000000#32, by decide, .inl rfl⟩, .inr ⟨0x41000000#32, by decide, .inr ⟨5#32, rfl⟩⟩,
    rfl⟩

theorem witness_HardwareResetDiscardsAPartialCommand :
    Cut [0x04000000#32] ∧
    { start with input := stream [0x04000000] ++ HostInput.reset :: stream [0] }.input =
      [0x04000000#32].map .word ++ HostInput.reset :: stream [0] :=
  ⟨.inr ⟨0x04000000#32, by decide, .inl rfl⟩, rfl⟩

theorem witness_StepsOnlyExtendTheOutput :
    ∃ t, step { start with input := stream [0x40000000] } = .next t := ⟨_, rfl⟩

theorem witness_RefusedCommandsRaiseOneErrorInOrder :
    Instr.fieldsOk (.oscFreq (fld 3 0 0) inf) = false ∧
    Instr.fieldsOk (.oscFreq (fld 2 0 0) inf) = true ∧ Instr.dataOk (.oscFreq (fld 2 0 0) inf) = false ∧
    Instr.wellFormed (.oscFreq (fld 2 0 0) F64.one) = true ∧ start.status &&& 0x06#5 = 0#5 ∧
    ∃ t, exec (.oscFreq (fld 2 0 0) F64.one) start = .next t :=
  ⟨by decide, by decide, by decide, by decide, rfl, ⟨_, rfl⟩⟩

theorem witness_DataWordsAreConsumedWhateverTheOutcome :
    (((0x04000000#32).extractLsb' 24 8).toNat ∈ hdOps ∧
      ∃ t, step { start with input := stream [0x04000000, 0, 0x7FF00000] } = .next t) ∧
    Instr.fieldsOk (.oscFreq (fld 0 0 0) ⟨0x7FF00000#32 ++ 0#32⟩) = true ∧
    F64.isFinite ⟨0x7FF00000#32 ++ 0#32⟩ = false :=
  ⟨⟨by decide, ⟨_, rfl⟩⟩, by decide, by decide⟩

theorem witness_StatusBitsAreSticky :
    (∃ t, exec (.nop (fld 0 0 0)) { start with status := 0x10#5 } = .next t) ∧
    (Instr.nop (fld 0 0 0)).parts.1 ∉ [0x51#8, 0x7F#8] ∧
    { start with status := 0x10#5 }.status.getLsbD 4 = true :=
  ⟨⟨_, rfl⟩, by decide, by decide⟩

/-- A command outside the writers of each register executes: NOP. -/
theorem witness_RegistersHaveOnlyTheirWriters :
    (∃ t, exec (.nop (fld 0 0 0)) start = .next t) ∧
    (Instr.nop (fld 0 0 0)).parts.1 ∉ [0x7F#8, 0x01#8, 0x30#8, 0x31#8, 0x40#8] :=
  ⟨⟨_, rfl⟩, by decide⟩

/-- A STATUS bit that a command clears, and one that a command sets. -/
theorem witness_RegistersHaveOnlyTheirWriters_status :
    (∃ t, exec (.statusClr (fld 0 0 1)) { start with status := 1#5 } = .next t ∧
      t.status.getLsbD 0 = false) ∧
    (∃ t, exec (.noteOn (fld 0 0 1)) { start with held := List.replicate 16 0#7 } = .next t ∧
      start.status.getLsbD 3 = false ∧ t.status.getLsbD 3 = true) :=
  ⟨⟨_, rfl, by decide⟩, ⟨_, rfl, by decide, by decide⟩⟩

/-- Fields that are not all zero: one in each field. -/
theorem witness_nonzeroFields :
    fld 15 0 0 ≠ noFields ∧ fld 0 1 0 ≠ noFields ∧ fld 0 0 0xFFFF ≠ noFields := by decide

theorem witness_SoftResetResetsTheRegisters : fld 0 0 1 ≠ noFields := by decide

/-- The parameters with CUT_OCT 1.0 are legal. -/
theorem params_legal : params.Legal where
  fs_finite := by decide
  fs_pos := by decide +kernel
  fs_nyquist := by decide +kernel
  nch_pos := by decide
  nch_le := by decide
  maxNotes_pos := by decide
  maxNotes_le := by decide
  scale_length := by decide
  cutOct_finite := by decide

theorem env_ok : EnvOk start.env where
  attack_finite := by decide
  attack_nonneg := by decide +kernel
  decay_finite := by decide
  decay_nonneg := by decide +kernel
  release_finite := by decide
  release_nonneg := by decide +kernel
  sustain_lo := by decide +kernel
  sustain_hi := by decide +kernel
  aOff_lo := by decide +kernel
  aOff_hi := by decide +kernel

/-- A state with numerals for its parameters meets the invariant, and a step leaves a state. -/
theorem witness_EveryStepKeepsTheInvariant :
    Inv start ∧ ∃ t, step { start with input := stream [0x40000000] } = .next t := by
  refine ⟨⟨params_legal, ?_, env_ok, ?_, by decide, ⟨by decide, by decide⟩, ?_, by decide⟩, ⟨_, rfl⟩⟩
  · intro i
    fin_cases i <;> exact ⟨by decide, by decide, by decide, by decide, by decide, by decide⟩
  · exact ⟨by decide, by decide +kernel, by decide +kernel, by decide, by decide⟩
  · intro c
    unfold PcmOk
    fin_cases c <;> decide

/-- Accepted operands of the oscillator setters at the ends of their ranges, and each refusal. -/
theorem witness_oscSetters :
    (fld 0 0 0).a.toNat = (0 : Fin 3).val ∧ (fld 2 0 0).a.toNat = (2 : Fin 3).val ∧
    (fld 2 0 0).b = 0#4 ∧ (fld 2 0 0).imm = 0#16 ∧ F64.one.isFinite = true ∧ inf.isFinite = false ∧
    2 < (fld 3 0 0).a.toNat ∧ (fld 0 1 0).b ≠ 0#4 ∧ (fld 0 0 1).imm ≠ 0#16 := by decide

theorem witness_OscNumSettersWriteTheirRegisters :
    (fld 1 0 0).a.toNat = (1 : Fin 3).val ∧ (fld 1 0 0).b = 0#4 ∧ (fld 1 0 0).imm = 0#16 ∧
    F64.one.isFinite = true ∧ inf.isFinite = false ∧ 2 < (fld 15 0 0).a.toNat := by decide

theorem witness_OscWaveSetsTheWaveform :
    (fld 2 0 4).imm.toNat = waveCode .noise ∧ (fld 0 0 0).imm.toNat = waveCode .sine ∧
    4 < (fld 0 0 5).imm.toNat := by decide

theorem witness_OscGainClampsTheChannel :
    (3 : Fin 4).val = min (fld 0 15 0).b.toNat 3 ∧ (0 : Fin 4).val = min (fld 0 0 0).b.toNat 3 := by decide

theorem witness_OscOctaveClamps :
    (fld 0 0 0x8000).imm.toInt < -4 ∧ 4 < (fld 0 0 5).imm.toInt ∧
    -4 ≤ (fld 0 0 0xFFFC).imm.toInt ∧ (fld 0 0 4).imm.toInt ≤ 4 := by decide

theorem witness_OscFlagSetters :
    (fld 0 0 0).imm.toNat = false.toNat ∧ (fld 0 0 1).imm.toNat = true.toNat ∧ 1 < (fld 0 0 2).imm.toNat := by
  decide

/-- Data operands at the ends of the clamped ranges and beyond, and a nonzero field. -/
theorem witness_EnvSettersClamp :
    F64.one.isFinite = true ∧ (num 0x8000000000000000).isFinite = true ∧ inf.isFinite = false ∧
    fld 0 0 1 ≠ noFields := by decide

theorem witness_PlainNumSettersWriteOneRegister :
    (num 0x4034000000000000).isFinite = true ∧ inf.isFinite = false ∧ fld 1 0 0 ≠ noFields := by decide

theorem witness_NoteOnAppendsAndStartsTheEnvelope :
    (fld 0 0 127).imm.toNat = (127#7).toNat ∧ 127 < (fld 0 0 128).imm.toNat ∧
    127#7 ∈ { start with held := [127#7] }.held ∧ 0#7 ∉ { start with held := [127#7] }.held ∧
    { start with held := [127#7], cfg := { params with maxNotes := 1 } }.held.length =
      { start with held := [127#7], cfg := { params with maxNotes := 1 } }.cfg.maxNotes ∧
    { start with held := [127#7] }.held.length ≠ { start with held := [127#7] }.cfg.maxNotes ∧
    start.held = [] ∧ start.held.length ≠ start.cfg.maxNotes := by decide

theorem witness_NoteOffRemovesAndStopsTheEnvelope :
    ([0#7, 127#7] : List (BitVec 7)).Nodup ∧ 5#7 ∉ ([0#7, 127#7] : List (BitVec 7)) ∧
    127#7 ∈ ([0#7, 127#7] : List (BitVec 7)) ∧ ([0#7, 127#7] : List (BitVec 7)) ≠ [127#7] ∧
    { start with held := [127#7] }.held = [127#7] := by decide

theorem witness_EnvelopeAmplitudeFollowsItsCases :
    ∃ e r aS dS rS : F64,
      e = F64.div (F64.ofNat ((7#64) - start.env.nOn).toNat) params.fs ∧
      r = F64.div (F64.ofNat ((7#64) - start.env.nOff).toNat) params.fs ∧
      aS = F64.div start.env.attack ⟨0x408F400000000000#64⟩ ∧
      dS = F64.div start.env.decay ⟨0x408F400000000000#64⟩ ∧
      rS = F64.div start.env.release ⟨0x408F400000000000#64⟩ :=
  ⟨_, _, _, _, _, rfl, rfl, rfl, rfl, rfl⟩

/-- A completed release and a completed auto-release. -/
theorem witness_CompletedEnvelopeIsSilent :
    envDone params.fs { Reset.env with active := true, released := true } 0 = true ∧
    envDone params.fs { Reset.env with active := true, sustain := F64.zero } 0 = true := by decide +kernel

/-- The envelope of 41_envelope.md in its release, with the captured level 0.5. -/
def released : Env := { env with released := true, nOff := 5000, aOff := num 0x3FE0000000000000 }

theorem released_ok : EnvOk released where
  attack_finite := by decide
  attack_nonneg := by decide +kernel
  decay_finite := by decide
  decay_nonneg := by decide +kernel
  release_finite := by decide
  release_nonneg := by decide +kernel
  sustain_lo := by decide +kernel
  sustain_hi := by decide +kernel
  aOff_lo := by decide +kernel
  aOff_hi := by decide +kernel

theorem witness_EnvelopeAmplitudeStaysInUnitRange :
    params.Legal ∧ EnvOk start.env ∧ EnvOk released := ⟨params_legal, env_ok, released_ok⟩

/-- Two frames of an attack, a frame of the sustain, and two frames of a release. -/
theorem witness_EnvelopeRampsAreMonotone :
    (F64.lt (env.e params.fs 220) (seconds env.attack) = true ∧
      (219#64 - env.nOn).toNat ≤ (220#64 - env.nOn).toNat) ∧
    (F64.eq env.sustain F64.zero = false ∧ F64.le (seconds env.attack) (env.e params.fs 5000) = true ∧
      F64.le (seconds env.decay) (F64.sub (env.e params.fs 5000) (seconds env.attack)) = true) ∧
    (EnvOk released ∧ released.active = true ∧ released.released = true ∧
      (5000#64 - released.nOff).toNat ≤ (7205#64 - released.nOff).toNat) :=
  ⟨⟨by decide +kernel, by decide⟩, ⟨by decide +kernel, by decide +kernel, by decide +kernel⟩,
    released_ok, rfl, rfl, by decide⟩

theorem witness_FilterImmediateSetters :
    (fld 0 0 2).imm.toNat = polesCode .two ∧ (fld 0 0 4).imm.toNat = polesCode .four ∧
    (∀ v, (fld 0 0 3).imm.toNat ≠ polesCode v) ∧
    (fld 0 0 0).imm.toNat = modeCode .svfLp ∧ (fld 0 0 2).imm.toNat = modeCode .bqHp ∧
    (∀ v, (fld 0 0 3).imm.toNat ≠ modeCode v) ∧
    (fld 0 0 24).imm.toNat = (24 : Fin 25).val ∧ (∀ v : Fin 25, (fld 0 0 25).imm.toNat ≠ v.val) :=
  ⟨rfl, rfl, fun v => by cases v <;> decide, rfl, rfl, fun v => by cases v <;> decide, rfl, by decide⟩

theorem witness_ShpClipEnSetsTheFlag :
    (fld 0 0 1).imm.toNat = true.toNat ∧ (∀ v : Bool, (fld 0 0 2).imm.toNat ≠ v.toNat) := by decide

theorem witness_RouteSetWritesOneCell :
    (fld 4 8 1).a.toNat = (4 : Fin 5).val ∧ (fld 4 8 1).b.toNat ≤ 8 ∧ (fld 4 8 1).imm.toNat = true.toNat ∧
    (fld 0 0 0).imm.toNat = false.toNat ∧
    4 < (fld 5 0 0).a.toNat ∧ 8 < (fld 0 9 0).b.toNat ∧ 1 < (fld 0 0 2).imm.toNat := by decide

theorem witness_SelectingMixerClearsTheRow :
    (fld 4 8 1).a.toNat = (4 : Fin 5).val ∧ (fld 4 8 1).b = 8#4 ∧ (fld 4 8 1).imm = 1#16 := by decide

theorem witness_NopChangesNothing : fld 1 0 0 ≠ noFields := by decide

theorem witness_StatusClrClearsTheMask :
    (fld 0 0 0x1F).imm.toNat ≤ 0x1F ∧ 0x1F < (fld 0 0 0x20).imm.toNat := by decide

/-- The last channel and the last held slot that exist are mapped. -/
theorem witness_ReadAnswersTheRegister :
    Exists params (.chan 1 .outPcm) ∧ (fld 0 0 0x051A).imm.toNat = (Reg.chan 1 .outPcm).addr ∧
    Exists params (.held 15) ∧ (fld 0 0 0x061F).imm.toNat = (Reg.held 15).addr ∧ params.Legal :=
  ⟨show 1 < params.nch by decide, rfl, show 15 < params.maxNotes by decide, rfl, params_legal⟩

/-- The address after the last register is unmapped. -/
theorem witness_ReadOfUnmappedAddressAnswersZero :
    params.Legal ∧ ∀ r : Reg, Exists params r → (fld 0 0 0x0703).imm.toNat ≠ r.addr := by
  refine ⟨params_legal, fun r hr => ?_⟩
  have h : (fld 0 0 0x0703).imm.toNat = 0x0703 := rfl
  rw [h]
  cases r with
  | osc i r => cases r <;> simp only [Reg.addr] <;> omega
  | gain i k => simp only [Reg.addr]; omega
  | env r => cases r <;> simp [Reg.addr]
  | route s => simp only [Reg.addr]; omega
  | flt r => cases r <;> simp [Reg.addr]
  | chan c r => cases r <;> simp only [Reg.addr] <;> omega
  | held k =>
    have : k < 16 := hr
    simp only [Reg.addr]
    omega
  | _ => simp [Reg.addr]

theorem witness_AddressMapNamesEachRegisterOnce :
    params.Legal ∧ regAt params 0x061F#16 = some (.held 15) ∧ regAt params 0x0620#16 = none :=
  ⟨params_legal, by decide, by decide⟩

theorem witness_RegisterImagesFollowTheirType :
    Inv start ∧ { start with held := [127#7] }.held[0]? = some 127#7 ∧
    { start with held := [127#7] }.held.length ≤ 1 :=
  ⟨witness_EveryStepKeepsTheInvariant.1, by decide, by decide⟩

theorem witness_FrameRunsThePassesAndAdvancesTime :
    start.cfg.nch ≤ 4 ∧ fld 0 0 1 ≠ noFields ∧
    (∃ (e : F64) (u : State), e = envAmp start.cfg.fs start.env start.N ∧
      u = beforePass e start start.cfg.nch) := ⟨by decide, by decide, _, _, rfl, rfl⟩

/-- A column with no cell set and one with a cell set, a channel beyond NCH, and each filter mode. -/
theorem witness_FrameLeavesTheRestUnchanged :
    (∀ src : Fin 5, (start.route[src]).getLsbD 0 = false) ∧
    (({ start with route := #v[0x001#9, 0#9, 0#9, 0#9, 0#9] } : State).route[(0 : Fin 5)]).getLsbD 0 = true ∧
    start.cfg.nch ≤ (2 : Fin 4).val ∧ start.flt.mode = .svfLp ∧ start.flt.poles = .two ∧
    ({ start.flt with mode := .bqHp } : Flt).mode ≠ .svfLp := by decide

/-- Each waveform of the bounds, a phase that is finite and one that is not. -/
theorem witness_RawWaveformsStayInTheirBounds :
    ({ Reset.osc with wave := .square } : Osc).wave = .square ∧
    ({ Reset.osc with wave := .noise } : Osc).wave = .noise ∧ Reset.osc.wave = .sine ∧
    ({ Reset.osc with wave := .triangle } : Osc).wave = .triangle ∧
    (F64.add (F64.mul (F64.mul ⟨0x401921FB54442D18#64⟩ F64.one) F64.one) F64.zero).isFinite = true ∧
    (F64.add (F64.mul (F64.mul ⟨0x401921FB54442D18#64⟩ inf) F64.one) F64.zero).isFinite = false := by
  decide +kernel

theorem witness_InertStateHasNoEffectOnAFrame :
    (∃ t, exec (.frame noFields) start = .next t) ∧
    (∀ (src : Fin 5) (k : Nat), k < 9 → (src.val, k) ∉ deadCells →
      ((#v[0#9, 0#9, 0#9, 0x0C0#9, 0x040#9] : Vector (BitVec 9) 5)[src]).getLsbD k =
        (start.route[src]).getLsbD k) := by
  refine ⟨⟨_, rfl⟩, ?_⟩
  intro src k hk
  revert src
  interval_cases k <;> decide

theorem start_quiet : Quiet start :=
  ⟨params_legal, by decide, by decide, by decide +kernel⟩

theorem witness_SilenceUntilAMixerRouteIsSet :
    Quiet start ∧ params.Legal ∧ Quiet { start with input := stream [0x40000000] } ∧
    (∃ t, step { start with input := stream [0x40000000] } = .next t) ∧
    decode (leadingWords (stream [0x40000000])) = .ok (.frame (fld 0 0 0)) ∧
    ¬setsMixer (.frame (fld 0 0 0)) ∧ setsMixer (.routeSet (fld 4 8 1)) :=
  ⟨start_quiet, params_legal, ⟨params_legal, by decide, by decide, by decide +kernel⟩, ⟨_, rfl⟩, by decide,
    by simp [setsMixer, Instr.parts], by simp [setsMixer, Instr.parts]⟩

/-- The raw outputs of a state with a drone, as the stages' statement takes them. -/
theorem witness_PassRunsItsStagesInOrder :
    ∃ raw : Fin 3 → Nat → F64 × Nat, ∀ (i : Fin 3) (k : Nat),
      (example1State.osc[i].drone = true → raw i k =
        play stub example1State.cfg.sqTie example1State.osc[i] example1State.osc[i].freq example1State.T 0 k) ∧
      (example1State.osc[i].drone = false → raw i k =
        noteSum stub (ctxOf example1State F64.zero 0) example1State.osc[i] k) :=
  ⟨fun i k => if example1State.osc[i].drone = true then
      play stub example1State.cfg.sqTie example1State.osc[i] example1State.osc[i].freq example1State.T 0 k
    else noteSum stub (ctxOf example1State F64.zero 0) example1State.osc[i] k,
    fun _ _ => ⟨fun h => if_pos h, fun h => if_neg (by rw [h]; decide)⟩⟩

/-- A note with the index 107, one beyond it and one below 0. -/
theorem witness_HeldNotesSumInOrderAndSkipOutOfRange :
    noteFreq params Reset.osc 107 = some (num 0x40BEDE22007F791A) ∧ noteFreq params Reset.osc 108 = none ∧
    noteFreq params { Reset.osc with octave := -1 } 11 = none := by decide +kernel

theorem witness_NonDroneOutputsAreTheirNoteSums :
    start.osc[(2 : Fin 3)].drone = false ∧ start.held = [] := by decide

theorem witness_ModulationStagesAccumulateAndReEvaluate :
    columnActive example1State.route 0 = true ∧ columnActive example1State.route 3 = false ∧
    example1State.osc[0].drone = true ∧ example1State.osc[2].drone = false ∧
    columnActive #v[0x008#9, 0#9, 0#9, 0#9, 0#9] 3 = true := by decide

theorem witness_FilterAndMixerStagesReadTheirColumns :
    ∃ (out : Vector F64 3) (r : F64 × Chan) (y : F64), out = (voices stub start F64.zero 0).out ∧
      r = modeOutput stub start.cfg.fs start.flt F64.one
        (addRouted start.route 6 (fun v => v) [(0, out[0]), (1, out[1]), (2, out[2])]) start.chan[0] ∧
      y = shaped stub start.shp r.1 := ⟨_, _, _, rfl, rfl, rfl⟩

/-- A cutoff below, in and above its range, and a NaN. -/
theorem witness_FilterAndMixerStagesReadTheirColumns_cutoff :
    limited Config.fcMin Config.fcMax F64.one = Config.fcMin ∧
    limited Config.fcMin Config.fcMax Reset.cutoff = Reset.cutoff ∧
    limited Config.fcMin Config.fcMax inf = Config.fcMax ∧
    limited Config.fcMin Config.fcMax (num 0x7FF8000000000000) = Config.fcMin := by decide +kernel

theorem witness_FilterEquations :
    ∃ w0 cw a0 : F64, w0 = F64.div (F64.mul ⟨0x401921FB54442D18#64⟩ F64.one) params.fs ∧ cw = stub.fcos w0 ∧
      a0 = F64.add F64.one (F64.div (stub.fsin w0) (F64.mul F64.two F64.one)) :=
  ⟨_, _, _, rfl, rfl, rfl⟩

/-- Both gains, a NaN among the inputs; a finite crushed value, one from half way (0.5 at one bit), and an
input that is not finite. -/
theorem witness_ShapersStayOnTheirGrid :
    F64.le ⟨0#64⟩ F64.one = true ∧ F64.le ⟨0#64⟩ (num 0x7FF8000000000000) = false ∧
    (1 : Fin 25) ≠ 0 ∧ (24 : Fin 25) ≠ 0 ∧
    (bitCrush openFns 24 (num 0x3FE6666666666666)).isFinite = true ∧
    |(bitCrush openFns 1 (num 0x3FE0000000000000)).units - (num 0x3FE0000000000000).units| * 2 ^ 1 = 2 ^ 1074 ∧
    inf.isFinite = false := by decide +kernel

/-- The zeros of both signs, a NaN, and values of both signs. -/
theorem witness_RawWaveformsFollowTheirFormulas :
    F64.lt F64.zero F64.one = true ∧ F64.lt F64.negOne F64.zero = true ∧ F64.zero.isZero = true ∧
    (num 0x8000000000000000).isZero = true ∧ (num 0x7FF8000000000000).isNaN = true ∧
    F64.eq (F64.add F64.one F64.negOne) F64.zero = true ∧ F64.eq F64.one F64.zero = false := by decide +kernel

theorem witness_OnlyNoiseConsumesDraws :
    ({ Reset.osc with wave := .noise } : Osc).wave = .noise ∧ Reset.osc.wave ≠ .noise := by decide

/-- The ends of the PCM range, beyond them, and a NaN. -/
theorem witness_PcmIsClampedNeverWrapped :
    F64.le ⟨0x3FF0000000000000#64⟩ inf = true ∧ F64.le ⟨0x3FF0000000000000#64⟩ F64.one = true ∧
    F64.le F64.negOne ⟨0xBFF0000000000000#64⟩ = true ∧ (num 0x7FF8000000000000).isNaN = true ∧
    F64.le F64.negOne (num 0x3FE0000000000000) = true ∧ F64.le (num 0x3FE0000000000000) F64.one = true := by
  decide +kernel

/-- A ratio that rounds to a finite value, by a tie, and one that overflows. -/
theorem witness_RoundingIsToNearestEven :
    F64.isInf (F64.roundRatio false (2 ^ 54 + 2) 2) = false ∧
    F64.isInf (F64.roundRatio true ((2 ^ 54 - 1) * 2 ^ 2044) 1) = true := by decide +kernel

/-- Finite operands with a finite result and with one that overflows, a tie, a zero sum, and each invalid
operation's operands. -/
theorem witness_ArithmeticIsCorrectlyRounded :
    F64.one.isFinite = true ∧ (F64.add F64.one F64.one).isFinite = true ∧ F64.two.isZero = false ∧
    (F64.add (num 0x7FEFFFFFFFFFFFFF) (num 0x7FEFFFFFFFFFFFFF)).isInf = true ∧
    |(num 0x3FF0000000000001).units - (F64.one.units + (num 0x3CA0000000000000).units)| =
      |(F64.add F64.one (num 0x3CA0000000000000)).units - (F64.one.units + (num 0x3CA0000000000000).units)| ∧
    F64.one.units + F64.negOne.units = 0 ∧ F64.zero.isZero = true ∧ inf.isInf = true ∧
    (num 0x7FF8000000000000).isNaN = true := by decide +kernel

theorem witness_FmodIsExact : F64.one.isFinite = true ∧ F64.two.isFinite = true ∧ F64.two.isZero = false := by
  decide +kernel

theorem witness_OpenFunctionsHaveTheirProperties :
    inf.isFinite = false ∧ Within F64.one F64.negOne F64.one ∧ (num 0x7FF8000000000000).isNaN = true ∧
    F64.lt F64.zero F64.one = true ∧ F64.lt F64.one F64.halfPi = true ∧
    F64.one.units = 1 * 2 ^ 1074 :=
  ⟨by decide, ⟨by decide +kernel, by decide +kernel⟩, by decide, by decide +kernel, by decide +kernel,
    by decide +kernel⟩

end Sys2Proof.Tests
end

section
/-! PROOFS. Binary64 values as scaled integers: the classes, the magnitude as a significand times a power of
two, and the rounding of a ratio to an integer (rule R8). -/

namespace Sys2Proof.F64

/-! ### Classes and magnitudes -/

theorem isFinite_iff {x : F64} : isFinite x = true ↔ expo x < 2047 := by
  have h : expo x < 2 ^ 11 := BitVec.isLt _
  simp only [isFinite, bne_iff_ne, ne_eq]
  omega

theorem isNaN_of_finite {x : F64} (h : isFinite x = true) : isNaN x = false := by
  have := isFinite_iff.1 h
  simp only [isNaN, Bool.and_eq_false_iff, beq_eq_false_iff_ne]
  omega

theorem isInf_of_finite {x : F64} (h : isFinite x = true) : isInf x = false := by
  have := isFinite_iff.1 h
  simp only [isInf, Bool.and_eq_false_iff, beq_eq_false_iff_ne]
  omega

theorem isNaN_of_isInf {x : F64} (h : isInf x = true) : isNaN x = false := by
  simp_all [isInf, isNaN]

theorem isFinite_of_not_nan_inf {x : F64} (hn : isNaN x = false) (hi : isInf x = false) :
    isFinite x = true := by
  simp only [isNaN, isInf, isFinite] at *
  grind

theorem frac_lt (x : F64) : frac x < 2 ^ 52 := BitVec.isLt _

/-- A finite magnitude is a significand below 2^53 times a power of two, and the significand has its leading
bit but in the lowest binade. -/
theorem exists_scaled {x : F64} (h : isFinite x = true) :
    ∃ c j, mag x = c * 2 ^ j ∧ c < 2 ^ 53 ∧ j ≤ 2045 ∧ (j = 0 ∨ 2 ^ 52 ≤ c) := by
  have he := isFinite_iff.1 h
  have hf := frac_lt x
  unfold mag
  split
  · exact ⟨frac x, 0, by simp, by omega, by omega, .inl rfl⟩
  · exact ⟨2 ^ 52 + frac x, expo x - 1, rfl, by omega, by omega, .inr (by omega)⟩

/-- A finite magnitude is below the midpoint above the largest one. -/
theorem scaled_lt_overflow {c j : Nat} (hc : c < 2 ^ 53) (hj : j ≤ 2045) :
    c * 2 ^ j < (2 ^ 54 - 1) * 2 ^ 2044 := by
  have hle : c * 2 ^ j ≤ (2 ^ 53 - 1) * 2 ^ 2045 := by
    gcongr
    · omega
    · exact one_le_two
  have hP : 0 < 2 ^ 2044 := by positivity
  have hD : 2 ^ 2045 = 2 ^ 2044 * 2 := by rw [← pow_succ]
  rw [hD] at hle
  generalize 2 ^ 2044 = P at *
  omega

theorem mag_lt_overflow {x : F64} (h : isFinite x = true) : mag x < (2 ^ 54 - 1) * 2 ^ 2044 := by
  obtain ⟨c, j, hm, hc, hj, -⟩ := exists_scaled h
  rw [hm]
  exact scaled_lt_overflow hc hj

theorem isFinite_of_isZero {x : F64} (h : isZero x = true) : isFinite x = true := by
  rw [isFinite_iff]
  by_contra hc
  have hm : mag x = 0 := by simpa [isZero] using h
  rw [mag, if_neg (by omega)] at hm
  have : 0 < (2 ^ 52 + frac x) * 2 ^ (expo x - 1) := by positivity
  omega

theorem isZero_iff {x : F64} : isZero x = true ↔ units x = 0 := by
  rw [← Int.natAbs_eq_zero, units_natAbs, isZero, beq_iff_eq]

theorem isZero_eq_false {x : F64} : isZero x = false ↔ units x ≠ 0 := by
  rw [← Bool.not_eq_true, isZero_iff]

theorem units_of_isNeg {x : F64} (h : isNeg x = true) : units x = -(mag x : Int) := by
  simp [units, h]

theorem units_of_not_isNeg {x : F64} (h : isNeg x = false) : units x = (mag x : Int) := by
  simp [units, h]

/-- A magnitude built from a significand and an exponent, a carry out of the fraction included. -/
theorem mag_withSign_scaled (neg : Bool) {k r : Nat} (hr : r ≤ 2 ^ 53) (hk : k = 0 ∨ 2 ^ 52 ≤ r)
    (h : k * 2 ^ 52 + r < 2 ^ 63) : mag (withSign neg (k * 2 ^ 52 + r)) = r * 2 ^ k := by
  unfold mag
  rw [withSign_expo neg h, withSign_frac neg h]
  rcases Nat.lt_or_ge r (2 ^ 52) with h1 | h1
  · obtain rfl : k = 0 := by omega
    rw [if_pos (by omega)]
    omega
  rcases Nat.lt_or_ge r (2 ^ 53) with h2 | h2
  · rw [if_neg (by omega), show (k * 2 ^ 52 + r) / 2 ^ 52 - 1 = k by omega,
      show 2 ^ 52 + (k * 2 ^ 52 + r) % 2 ^ 52 = r by omega]
  · obtain rfl : r = 2 ^ 53 := by omega
    rw [if_neg (by omega), show (k * 2 ^ 52 + 2 ^ 53) / 2 ^ 52 - 1 = k + 1 by omega,
      show 2 ^ 52 + (k * 2 ^ 52 + 2 ^ 53) % 2 ^ 52 = 2 ^ 52 by omega, pow_succ]
    omega

/-! ### Rounding to an integer -/

/-- `divEven` is within half a unit of the ratio, and even where it is half a unit off. -/
theorem divEven_near (num : Nat) {den : Nat} (h : 0 < den) :
    2 * |((divEven num den * den : Nat) : Int) - num| ≤ den ∧
    (2 * |((divEven num den * den : Nat) : Int) - num| = den → divEven num den % 2 = 0) := by
  have hq := Nat.div_add_mod num den
  have hr := Nat.mod_lt num h
  rw [Nat.mul_comm] at hq
  unfold divEven
  split
  · rw [Nat.add_mul, Nat.one_mul, abs_of_nonneg (by omega)]
    omega
  · rw [abs_of_nonpos (by omega)]
    omega

/-- No integer is nearer to the ratio than `divEven`, and it is even where another is as near. -/
theorem divEven_nearest (num : Nat) {den : Nat} (h : 0 < den) (c : Nat) :
    |((divEven num den * den : Nat) : Int) - num| ≤ |((c * den : Nat) : Int) - num| ∧
    (|((c * den : Nat) : Int) - num| = |((divEven num den * den : Nat) : Int) - num| →
      c ≠ divEven num den → divEven num den % 2 = 0) := by
  obtain ⟨hn, he⟩ := divEven_near num h
  rcases eq_or_ne c (divEven num den) with rfl | hne
  · simp
  have hgap : (den : Int) ≤ |((c * den : Nat) : Int) - (divEven num den * den : Nat)| := by
    rw [Nat.cast_mul, Nat.cast_mul, ← Int.sub_mul, abs_mul, Nat.abs_cast]
    exact le_mul_of_one_le_left (Int.natCast_nonneg den) (Int.one_le_abs (by omega))
  have htri := abs_sub_le ((c * den : Nat) : Int) num (divEven num den * den : Nat)
  rw [abs_sub_comm (num : Int)] at htri
  exact ⟨by omega, fun heq _ => he (by omega)⟩

theorem div_le_divEven (num den : Nat) : num / den ≤ divEven num den := by
  unfold divEven
  split <;> omega

theorem divEven_le (num den : Nat) : divEven num den ≤ num / den + 1 := by
  unfold divEven
  split <;> omega

/-- A whole ratio is not rounded. -/
theorem divEven_exact (c : Nat) {den : Nat} (h : 0 < den) : divEven (c * den) den = c := by
  have h' : ¬ den < 0 := by omega
  simp [divEven, Nat.mul_div_cancel c h]
  omega

end Sys2Proof.F64
end

section
/-! PROOFS. `roundRatio`: the spacing and the significand of a ratio, where it overflows, and that no finite
value is nearer (rule R8, log entry 10). -/

namespace Sys2Proof.F64

/-! ### The parts of a rounded ratio -/

/-- The significand `roundRatio` gives the ratio at its spacing. -/
def significand (num den : Nat) : Nat := divEven num (den * 2 ^ spacing num den)

theorem roundRatio_eq (neg : Bool) (num den : Nat) :
    roundRatio neg num den =
      withSign neg (min infBits (spacing num den * 2 ^ 52 + significand num den)) := rfl

theorem zeroOf_eq_roundRatio (neg : Bool) : zeroOf neg = roundRatio neg 0 1 := by
  simp [zeroOf, roundRatio, spacing, divEven]

section

variable {num den : Nat}

theorem ratio_lt_spacing : num / den < 2 ^ (53 + spacing num den) := by
  refine lt_of_lt_of_le Nat.lt_log2_self (Nat.pow_le_pow_right (by decide) ?_)
  unfold spacing
  omega

theorem spacing_le_ratio (hk : spacing num den ≠ 0) : 2 ^ (52 + spacing num den) ≤ num / den := by
  have hl : 52 + spacing num den = Nat.log2 (num / den) := by
    unfold spacing at *
    omega
  have hq : num / den ≠ 0 := by
    intro h0
    rw [spacing, h0] at hk
    exact hk rfl
  rw [hl]
  exact Nat.log2_self_le hq

theorem ratio_div_spacing :
    num / (den * 2 ^ spacing num den) = num / den / 2 ^ spacing num den :=
  (Nat.div_div_eq_div_mul ..).symm

theorem significand_le : significand num den ≤ 2 ^ 53 := by
  have h : num / den / 2 ^ spacing num den < 2 ^ 53 :=
    Nat.div_lt_of_lt_mul (by rw [← pow_add, Nat.add_comm]; exact ratio_lt_spacing)
  refine (divEven_le ..).trans ?_
  rw [ratio_div_spacing]
  exact h

theorem le_significand (hk : spacing num den ≠ 0) : 2 ^ 52 ≤ significand num den := by
  refine Nat.le_trans ?_ (div_le_divEven ..)
  rw [ratio_div_spacing, Nat.le_div_iff_mul_le (by positivity), ← pow_add]
  exact spacing_le_ratio hk

theorem spacing_eq_zero_or : spacing num den = 0 ∨ 2 ^ 52 ≤ significand num den := by
  by_cases hk : spacing num den = 0
  · exact .inl hk
  · exact .inr (le_significand hk)

/-! ### The class of a rounded ratio -/

/-- In the highest binade the significand carries out, to an infinity, exactly from the midpoint above the largest
finite value on: the midpoint itself is a tie, whose even neighbour is the carry. -/
theorem carry_iff (num : Nat) {P : Nat} (hP : 0 < P) :
    2 ^ 53 ≤ divEven num (2 * P) ↔ (2 ^ 54 - 1) * P ≤ num := by
  obtain ⟨hn, he⟩ := divEven_near num (den := 2 * P) (by omega)
  have habs := abs_le.1 (show |((divEven num (2 * P) * (2 * P) : Nat) : Int) - num| ≤ P by omega)
  generalize divEven num (2 * P) = r at *
  constructor
  · intro h
    have hr : 2 ^ 53 * (2 * P) ≤ r * (2 * P) := Nat.mul_le_mul_right _ h
    omega
  · intro h
    by_contra hc
    have hr : r * (2 * P) ≤ (2 ^ 53 - 1) * (2 * P) := Nat.mul_le_mul_right _ (by omega)
    have heq : r * (2 * P) = (2 ^ 53 - 1) * (2 * P) := by omega
    obtain rfl := Nat.eq_of_mul_eq_mul_right (by omega) heq
    have := he (by rw [abs_of_nonpos (by omega)]; omega)
    omega

/-- The lower bits of the value reach those of an infinity exactly where the ratio reaches the midpoint above
the largest finite value. -/
theorem infBits_le_iff (hden : 0 < den) :
    infBits ≤ spacing num den * 2 ^ 52 + significand num den ↔ (2 ^ 54 - 1) * 2 ^ 2044 * den ≤ num := by
  have hq : num / den * den ≤ num := Nat.div_mul_le_self ..
  have hq' : num < (num / den + 1) * den := Nat.lt_mul_of_div_lt (Nat.lt_succ_self _) hden
  have hle := significand_le (num := num) (den := den)
  have hbits : infBits = 2047 * 2 ^ 52 := rfl
  rcases Nat.lt_trichotomy (spacing num den) 2045 with hk | hk | hk
  · have hlt : num < 2 ^ 2097 * den := by
      refine hq'.trans_le (Nat.mul_le_mul_right den ?_)
      exact ratio_lt_spacing.trans_le (pow_le_pow_right₀ one_le_two (by omega))
    have hP : (2 ^ 54 - 1) * 2 ^ 2044 * den = (2 ^ 53 - 1) * 2 ^ 2044 * den + 2 ^ 2097 * den := by
      rw [show 2097 = 53 + 2044 from rfl, pow_add]
      generalize 2 ^ 2044 = P
      ring
    constructor <;> omega
  · have hpow : 2 ^ 2045 = 2 * 2 ^ 2044 := by rw [← pow_succ']
    have hs : significand num den = divEven num (2 * (2 ^ 2044 * den)) := by
      rw [significand, hk, hpow, Nat.mul_comm den, Nat.mul_assoc]
    rw [Nat.mul_assoc, ← carry_iff num (by positivity), ← hs, hk, hbits]
    omega
  · have hge : 2 ^ 2098 * den ≤ num := by
      refine Nat.le_trans (Nat.mul_le_mul_right den ?_) hq
      exact (pow_le_pow_right₀ one_le_two (by omega)).trans (spacing_le_ratio (by omega))
    have hs := le_significand (num := num) (den := den) (by omega)
    have hP : 2 ^ 2098 * den = (2 ^ 54 - 1) * 2 ^ 2044 * den + 2 ^ 2044 * den := by
      rw [show 2098 = 54 + 2044 from rfl, pow_add]
      generalize 2 ^ 2044 = P
      ring
    constructor <;> omega

theorem roundRatio_bits_lt {m : Nat} : min infBits m < 2 ^ 63 :=
  lt_of_le_of_lt (Nat.min_le_left ..) infBits_lt

/-- The rounded ratio is an infinity exactly from the midpoint above the largest finite value on. -/
theorem roundRatio_isInf_iff (neg : Bool) (hden : 0 < den) :
    isInf (roundRatio neg num den) = true ↔ (2 ^ 54 - 1) * 2 ^ 2044 * den ≤ num := by
  rw [← infBits_le_iff hden, roundRatio_eq, isInf, withSign_expo neg roundRatio_bits_lt,
    withSign_frac neg roundRatio_bits_lt]
  generalize spacing num den * 2 ^ 52 + significand num den = m
  have : infBits = 2047 * 2 ^ 52 := rfl
  simp only [Bool.and_eq_true, beq_iff_eq]
  omega

theorem roundRatio_isFinite (neg : Bool) (h : num < (2 ^ 54 - 1) * 2 ^ 2044 * den) :
    isFinite (roundRatio neg num den) = true := by
  have hden : 0 < den := Nat.pos_of_mul_pos_left (Nat.zero_lt_of_lt h)
  refine isFinite_of_not_nan_inf (roundRatio_not_nan ..) ?_
  rw [Bool.eq_false_iff, ne_eq, roundRatio_isInf_iff neg hden]
  omega

/-- Where it does not overflow, the value is its significand at its spacing. -/
theorem roundRatio_bits (neg : Bool) (h : num < (2 ^ 54 - 1) * 2 ^ 2044 * den) :
    roundRatio neg num den = withSign neg (spacing num den * 2 ^ 52 + significand num den) ∧
    spacing num den * 2 ^ 52 + significand num den < 2 ^ 63 := by
  have hden : 0 < den := Nat.pos_of_mul_pos_left (Nat.zero_lt_of_lt h)
  have hlt : spacing num den * 2 ^ 52 + significand num den < infBits := by
    rw [← not_le, infBits_le_iff hden]
    omega
  exact ⟨by rw [roundRatio_eq, Nat.min_eq_right hlt.le], hlt.trans infBits_lt⟩

theorem mag_roundRatio (neg : Bool) (h : num < (2 ^ 54 - 1) * 2 ^ 2044 * den) :
    mag (roundRatio neg num den) = significand num den * 2 ^ spacing num den := by
  obtain ⟨heq, hlt⟩ := roundRatio_bits neg h
  rw [heq, mag_withSign_scaled neg significand_le spacing_eq_zero_or hlt]

theorem frac_roundRatio_even (neg : Bool) (h : num < (2 ^ 54 - 1) * 2 ^ 2044 * den) :
    frac (roundRatio neg num den) % 2 = significand num den % 2 := by
  obtain ⟨heq, hlt⟩ := roundRatio_bits neg h
  rw [heq, withSign_frac neg hlt]
  omega

/-! ### No value is nearer -/

/-- No finite value is nearer to the ratio than the significand at its spacing, and the significand is even
where another is as near. -/
theorem significand_nearest (hden : 0 < den) {y : F64} (hy : isFinite y = true) :
    |((significand num den * 2 ^ spacing num den * den : Nat) : Int) - num| ≤
      |((mag y * den : Nat) : Int) - num| ∧
    (|((mag y * den : Nat) : Int) - num| =
        |((significand num den * 2 ^ spacing num den * den : Nat) : Int) - num| →
      mag y ≠ significand num den * 2 ^ spacing num den → significand num den % 2 = 0) := by
  have hnear := divEven_nearest num (den := den * 2 ^ spacing num den) (by positivity)
  rw [show divEven num (den * 2 ^ spacing num den) = significand num den from rfl] at hnear
  have hS : significand num den * 2 ^ spacing num den * den =
      significand num den * (den * 2 ^ spacing num den) := by ring
  obtain ⟨c, j, hm, hc, -, -⟩ := exists_scaled hy
  rw [hS, hm]
  rcases le_or_gt (spacing num den) j with hj | hj
  · -- `y` is on the grid of the spacing
    have hp : c * 2 ^ j = c * 2 ^ (j - spacing num den) * 2 ^ spacing num den := by
      rw [Nat.mul_assoc, ← pow_add, Nat.sub_add_cancel hj]
    have hY : c * 2 ^ j * den = c * 2 ^ (j - spacing num den) * (den * 2 ^ spacing num den) := by
      rw [hp]
      ring
    obtain ⟨hle, htie⟩ := hnear (c * 2 ^ (j - spacing num den))
    rw [hY]
    refine ⟨hle, fun heq hne => htie heq fun h => hne ?_⟩
    rw [hp, h]
  · -- `y` is below the binade of the ratio, whose lower end is nearer
    have hlow : 2 ^ 52 * (den * 2 ^ spacing num den) ≤ num := by
      have := Nat.mul_le_mul_right den (spacing_le_ratio (num := num) (den := den) (by omega))
      refine Nat.le_trans (Nat.le_of_eq ?_) (this.trans (Nat.div_mul_le_self ..))
      rw [pow_add]
      ring
    have hylt : c * 2 ^ j * den < 2 ^ 52 * (den * 2 ^ spacing num den) := by
      calc c * 2 ^ j * den < 2 ^ 53 * 2 ^ j * den := by gcongr
        _ = 2 ^ 52 * (den * 2 ^ (j + 1)) := by ring
        _ ≤ 2 ^ 52 * (den * 2 ^ spacing num den) := by
          gcongr
          · exact one_le_two
          · exact hj
    have hle := (hnear (2 ^ 52)).1
    have hlt : |((2 ^ 52 * (den * 2 ^ spacing num den) : Nat) : Int) - num| <
        |((c * 2 ^ j * den : Nat) : Int) - num| := by
      rw [abs_of_nonpos (by omega), abs_of_nonpos (by omega)]
      omega
    exact ⟨(hle.trans_lt hlt).le, fun heq => absurd heq (hle.trans_lt hlt).ne'⟩

/-- No finite value is nearer to the ratio than the rounded one, whose fraction is even where another is as
near. -/
theorem roundRatio_nearest (neg : Bool) (h : num < (2 ^ 54 - 1) * 2 ^ 2044 * den) {y : F64}
    (hy : isFinite y = true) :
    |((mag (roundRatio neg num den) * den : Nat) : Int) - num| ≤ |((mag y * den : Nat) : Int) - num| ∧
    (|((mag y * den : Nat) : Int) - num| = |((mag (roundRatio neg num den) * den : Nat) : Int) - num| →
      mag y ≠ mag (roundRatio neg num den) → frac (roundRatio neg num den) % 2 = 0) := by
  rw [mag_roundRatio neg h, frac_roundRatio_even neg h]
  exact significand_nearest (Nat.pos_of_mul_pos_left (Nat.zero_lt_of_lt h)) hy

/-- A magnitude that is a value's is not rounded. -/
theorem roundRatio_exact (neg : Bool) {c j : Nat} (hc : c < 2 ^ 53) (hj : j ≤ 2045) :
    isFinite (roundRatio neg (c * 2 ^ j) 1) = true ∧ mag (roundRatio neg (c * 2 ^ j) 1) = c * 2 ^ j := by
  have hlt : c * 2 ^ j < (2 ^ 54 - 1) * 2 ^ 2044 * 1 := by
    rw [Nat.mul_one]
    exact scaled_lt_overflow hc hj
  have hk : spacing (c * 2 ^ j) 1 ≤ j := by
    rcases Nat.eq_zero_or_pos c with rfl | hpos
    · simp [spacing]
    · have hlog : Nat.log2 (c * 2 ^ j) < 53 + j := by
        rw [Nat.log2_lt (Nat.mul_pos hpos (by positivity)).ne', pow_add]
        exact Nat.mul_lt_mul_of_pos_right hc (by positivity)
      rw [spacing, Nat.div_one]
      omega
  refine ⟨roundRatio_isFinite neg hlt, ?_⟩
  rw [mag_roundRatio neg hlt, significand, Nat.one_mul]
  have hp : c * 2 ^ j = c * 2 ^ (j - spacing (c * 2 ^ j) 1) * 2 ^ spacing (c * 2 ^ j) 1 := by
    rw [Nat.mul_assoc, ← pow_add, Nat.sub_add_cancel hk]
  generalize spacing (c * 2 ^ j) 1 = k at *
  rw [hp, divEven_exact _ (by positivity)]

end

end Sys2Proof.F64
end

section
/-! PROOFS. The rounding of a signed ratio, in the terms of `CorrectlyRounded` (rule R8). -/

namespace Sys2Proof.F64

open Sys2Proof.Claims

/-! ### The rounding of a signed ratio -/

theorem units_mul_natCast (x : F64) (den : Nat) :
    units x * den = if isNeg x then -((mag x * den : Nat) : Int) else ((mag x * den : Nat) : Int) := by
  unfold units
  split <;> push_cast <;> ring

/-- A value nearest in magnitude, on the ratio's side of zero, is nearest among the signed values too: one on
the other side is no nearer than zero. -/
theorem nearest_of_nearest_mag {r y : F64} {n : Int} {den : Nat} (hden : 0 < den)
    (hneg : n < 0 → isNeg r = true) (hpos : 0 < n → isNeg r = false)
    (hzero : |((mag r * den : Nat) : Int) - n.natAbs| ≤ n.natAbs)
    (hle : |((mag r * den : Nat) : Int) - n.natAbs| ≤ |((mag y * den : Nat) : Int) - n.natAbs|)
    (htie : |((mag y * den : Nat) : Int) - n.natAbs| = |((mag r * den : Nat) : Int) - n.natAbs| →
      mag y ≠ mag r → frac r % 2 = 0) :
    |units r * den - n| ≤ |units y * den - n| ∧
    (|units y * den - n| = |units r * den - n| → units y ≠ units r → frac r % 2 = 0) := by
  have hmag : mag y * den = mag r * den → mag y = mag r := Nat.eq_of_mul_eq_mul_right hden
  have hy0 : mag y * den = 0 → mag y = 0 := fun h =>
    (Nat.mul_eq_zero.1 h).resolve_right hden.ne'
  rw [units_mul_natCast, units_mul_natCast]
  simp only [Int.abs_eq_natAbs] at *
  unfold units
  generalize mag r * den = R at *
  generalize mag y * den = Y at *
  cases hr : isNeg r <;> cases hy : isNeg y <;>
    simp only [hr, hy, Bool.false_eq_true, ↓reduceIte, reduceCtorEq, imp_false] at *
  all_goals exact ⟨by omega, fun heq hne => htie (by omega) (by omega)⟩

theorem overflow_cast (n : Int) (den : Nat) :
    (2 ^ 54 - 1) * 2 ^ 2044 * (den : Int) ≤ |n| ↔ (2 ^ 54 - 1) * 2 ^ 2044 * den ≤ n.natAbs := by
  have h : (2 ^ 54 - 1) * 2 ^ 2044 * (den : Int) = (((2 ^ 54 - 1) * 2 ^ 2044 * den : Nat) : Int) := by
    rw [Nat.cast_mul, Nat.cast_mul, Nat.cast_pow]
    rfl
  rw [Int.abs_eq_natAbs, h, Int.ofNat_le]

/-- A signed ratio rounded by its magnitude is correctly rounded, where the sign asked for is the ratio's (any
sign of a zero). -/
theorem roundRatio_correctlyRounded {neg : Bool} {n : Int} {den : Nat} (hden : 0 < den)
    (hneg : n < 0 → neg = true) (hpos : 0 < n → neg = false) :
    CorrectlyRounded (roundRatio neg n.natAbs den) n den := by
  have hsgn := roundRatio_isNeg neg n.natAbs den
  refine ⟨?_, ?_, ?_, ?_, ?_⟩
  · rw [roundRatio_isInf_iff neg hden, overflow_cast]
  · exact isFinite_of_not_nan_inf (roundRatio_not_nan ..)
  · intro h; rw [hsgn, hneg h]
  · intro h; rw [hsgn, hpos h]
  · intro hfin y hy
    have hlt : n.natAbs < (2 ^ 54 - 1) * 2 ^ 2044 * den := by
      rw [← not_le, ← roundRatio_isInf_iff neg hden, isInf_of_finite hfin]
      decide
    obtain ⟨hle, htie⟩ := roundRatio_nearest neg hlt hy
    have hzero := (roundRatio_nearest neg hlt (y := zero) (by decide)).1
    rw [show mag zero = 0 by decide] at hzero
    refine nearest_of_nearest_mag hden (fun h => ?_) (fun h => ?_) (hzero.trans (by simp)) hle htie
    · rw [hsgn, hneg h]
    · rw [hsgn, hpos h]

end Sys2Proof.F64
end

section
/-! PROOFS. The four operations and `fmod` on finite operands, and their special operands (rules R8, R11, log
entry 10). -/

namespace Sys2Proof.F64

open Sys2Proof.Claims

/-! ### Sign and zero of the operations' operands -/

theorem isNeg_neg (x : F64) : isNeg (neg x) = !isNeg x := by
  rw [isNeg, neg, BitVec.msb_xor, show (0x8000000000000000#64).msb = true from rfl, Bool.xor_true, isNeg]

theorem expo_neg (x : F64) : expo (neg x) = expo x := by
  unfold expo neg
  rw [BitVec.extractLsb'_xor, show (0x8000000000000000#64).extractLsb' 52 11 = 0#11 from rfl, BitVec.xor_zero]

theorem frac_neg (x : F64) : frac (neg x) = frac x := by
  unfold frac neg
  rw [BitVec.extractLsb'_xor, show (0x8000000000000000#64).extractLsb' 0 52 = 0#52 from rfl, BitVec.xor_zero]

@[simp] theorem mag_neg (x : F64) : mag (neg x) = mag x := by
  simp [mag, expo_neg, frac_neg]

@[simp] theorem units_neg (x : F64) : units (neg x) = -units x := by
  unfold units
  rw [isNeg_neg, mag_neg]
  cases isNeg x <;> simp

@[simp] theorem isFinite_neg (x : F64) : isFinite (neg x) = isFinite x := by
  simp [isFinite, expo_neg]

@[simp] theorem isNaN_neg (x : F64) : isNaN (neg x) = isNaN x := by
  simp [isNaN, expo_neg, frac_neg]

@[simp] theorem isInf_neg (x : F64) : isInf (neg x) = isInf x := by
  simp [isInf, expo_neg, frac_neg]

@[simp] theorem isZero_neg (x : F64) : isZero (neg x) = isZero x := by
  simp [isZero]

theorem abs_neg_eq (x : F64) : abs (neg x) = abs x := by
  unfold abs neg
  congr 1
  ext i hi
  have hdisj : ((0x8000000000000000#64)[i] && (0x7FFFFFFFFFFFFFFF#64)[i]) = false := by
    rw [← BitVec.getElem_and, show 0x8000000000000000#64 &&& 0x7FFFFFFFFFFFFFFF#64 = 0#64 from rfl,
      BitVec.getElem_zero]
  rw [BitVec.getElem_and, BitVec.getElem_xor, Bool.and_xor_distrib_right, hdisj, Bool.xor_false,
    BitVec.getElem_and]

theorem neg_neg_eq (x : F64) : neg (neg x) = x := by
  simp [neg]

theorem isNeg_of_units_neg {x : F64} (h : units x < 0) : isNeg x = true := by
  by_contra hc
  rw [units_of_not_isNeg (by simpa using hc)] at h
  omega

theorem isNeg_of_units_pos {x : F64} (h : 0 < units x) : isNeg x = false := by
  by_contra hc
  rw [units_of_isNeg (by simpa using hc)] at h
  omega

/-- The exclusive-or of the signs is the sign of a product, where it has one. -/
theorem isNeg_bne_of_mul_neg {a b : F64} (h : units a * units b < 0) : (isNeg a != isNeg b) = true := by
  rcases mul_neg_iff.1 h with ⟨ha, hb⟩ | ⟨ha, hb⟩
  · simp [isNeg_of_units_pos ha, isNeg_of_units_neg hb]
  · simp [isNeg_of_units_neg ha, isNeg_of_units_pos hb]

theorem isNeg_bne_of_mul_pos {a b : F64} (h : 0 < units a * units b) : (isNeg a != isNeg b) = false := by
  rcases mul_pos_iff.1 h with ⟨ha, hb⟩ | ⟨ha, hb⟩
  · simp [isNeg_of_units_pos ha, isNeg_of_units_pos hb]
  · simp [isNeg_of_units_neg ha, isNeg_of_units_neg hb]

/-- The magnitude of a number of units scaled by 1.0. -/
theorem natAbs_mul_oneUnits (n : Int) : (n * 2 ^ 1074).natAbs = n.natAbs * oneUnits := by
  unfold oneUnits
  generalize 1074 = k
  rw [Int.natAbs_mul, Int.natAbs_pow]
  rfl

/-! ### The operations on finite operands (rule R8) -/

section

variable {a b : F64} (ha : isFinite a = true) (hb : isFinite b = true)

include ha hb

theorem sum_of_finite (nan : F64) :
    sum nan a b = if units a + units b = 0 then zeroOf (isNeg a && isNeg b)
      else roundRatio (decide (units a + units b < 0)) (units a + units b).natAbs 1 := by
  simp [sum, isNaN_of_finite ha, isNaN_of_finite hb, isInf_of_finite ha, isInf_of_finite hb]

theorem mul_of_finite : mul a b = roundRatio (isNeg a != isNeg b) (mag a * mag b) oneUnits := by
  simp [mul, isNaN_of_finite ha, isNaN_of_finite hb, isInf_of_finite ha, isInf_of_finite hb]

theorem div_of_finite (h0 : isZero b = false) :
    div a b = roundRatio (isNeg a != isNeg b) (mag a * oneUnits) (mag b) := by
  simp [div, isNaN_of_finite ha, isNaN_of_finite hb, isInf_of_finite ha, isInf_of_finite hb, h0]

theorem div_zero_of_finite (h0 : isZero b = true) :
    div a b = if isZero a then nanOf .div a b else infOf (isNeg a != isNeg b) := by
  simp [div, isNaN_of_finite ha, isNaN_of_finite hb, isInf_of_finite ha, isInf_of_finite hb, h0]

theorem sum_correctlyRounded (nan : F64) : CorrectlyRounded (sum nan a b) (units a + units b) 1 := by
  rw [sum_of_finite ha hb]
  split
  next h =>
    rw [h, zeroOf_eq_roundRatio]
    exact roundRatio_correctlyRounded (n := 0) one_pos (by simp) (by simp)
  next h =>
    exact roundRatio_correctlyRounded one_pos (by simp) (by simp; omega)

theorem add_correctlyRounded : CorrectlyRounded (add a b) (units a + units b) 1 :=
  sum_correctlyRounded ha hb _

theorem sub_correctlyRounded : CorrectlyRounded (sub a b) (units a - units b) 1 := by
  rw [Int.sub_eq_add_neg, ← units_neg]
  exact sum_correctlyRounded ha (by simpa using hb) _

theorem mul_correctlyRounded : CorrectlyRounded (mul a b) (units a * units b) (2 ^ 1074) := by
  rw [mul_of_finite ha hb, ← units_natAbs a, ← units_natAbs b, ← Int.natAbs_mul, oneUnits]
  exact roundRatio_correctlyRounded (by positivity) isNeg_bne_of_mul_neg isNeg_bne_of_mul_pos

theorem div_correctlyRounded (h0 : isZero b = false) :
    CorrectlyRounded (div a b) (units a * 2 ^ 1074 * (units b).sign) (units b).natAbs := by
  have hu := isZero_eq_false.1 h0
  have hn : (units a * 2 ^ 1074 * (units b).sign).natAbs = mag a * oneUnits := by
    rw [Int.natAbs_mul, Int.natAbs_sign_of_ne_zero hu, Nat.mul_one, natAbs_mul_oneUnits, units_natAbs]
  have hs : (units a * 2 ^ 1074 * (units b).sign).sign = (units a * units b).sign := by
    rw [Int.sign_mul, Int.sign_mul, Int.sign_sign, Int.sign_mul,
      Int.sign_eq_one_of_pos (a := 2 ^ 1074) (by positivity), Int.mul_one]
  rw [div_of_finite ha hb h0, ← hn, ← units_natAbs b]
  refine roundRatio_correctlyRounded (Int.natAbs_pos.2 hu) (fun h => ?_) (fun h => ?_)
  · rw [← Int.sign_eq_neg_one_iff_neg, hs, Int.sign_eq_neg_one_iff_neg] at h
    exact isNeg_bne_of_mul_neg h
  · rw [← Int.sign_eq_one_iff_pos, hs, Int.sign_eq_one_iff_pos] at h
    exact isNeg_bne_of_mul_pos h

end

/-! ### Special operands (log entry 10) -/

theorem zeroOf_isNeg (s : Bool) : isNeg (zeroOf s) = s := withSign_isNeg s (by decide)

theorem infOf_isNeg (s : Bool) : isNeg (infOf s) = s := withSign_isNeg s infBits_lt

theorem infOf_isInf (s : Bool) : isInf (infOf s) = true := by cases s <;> decide

theorem nanOf_isNaN (op : NumOp) (a b : F64) : isNaN (nanOf op a b) = true := asNaN_isNaN _

section

variable {a b : F64} (ha : isFinite a = true) (hb : isFinite b = true)

include ha hb

theorem add_isNeg_of_zero (h : units a + units b = 0) : isNeg (add a b) = (isNeg a && isNeg b) := by
  rw [add, sum_of_finite ha hb, if_pos h, zeroOf_isNeg]

theorem sub_isNeg_of_zero (h : units a = units b) : isNeg (sub a b) = (isNeg a && !isNeg b) := by
  rw [sub, sum_of_finite ha (by simpa using hb), if_pos (by simp [h]), zeroOf_isNeg, isNeg_neg]

theorem mul_isNeg : isNeg (mul a b) = (isNeg a != isNeg b) := by
  rw [mul_of_finite ha hb, roundRatio_isNeg]

theorem div_isNeg (h : isZero a = false ∨ isZero b = false) : isNeg (div a b) = (isNeg a != isNeg b) := by
  cases hz : isZero b
  · rw [div_of_finite ha hb hz, roundRatio_isNeg]
  · have ha0 : isZero a = false := h.resolve_right (by simp [hz])
    rw [div_zero_of_finite ha hb hz, ha0, if_neg (by decide), infOf_isNeg]

theorem div_zero_isInf (ha0 : isZero a = false) (hb0 : isZero b = true) : isInf (div a b) = true := by
  rw [div_zero_of_finite ha hb hb0, ha0, if_neg (by decide), infOf_isInf]

theorem zero_div_zero_isNaN (ha0 : isZero a = true) (hb0 : isZero b = true) : isNaN (div a b) = true := by
  rw [div_zero_of_finite ha hb hb0, if_pos ha0, nanOf_isNaN]

end

section

variable {a b : F64}

theorem sum_nan_operand (nan : F64) (h : isNaN a = true ∨ isNaN b = true) : sum nan a b = nan := by
  simp [sum, h]

theorem add_nan_operand (h : isNaN a = true ∨ isNaN b = true) : isNaN (add a b) = true := by
  rw [add, sum_nan_operand _ h, nanOf_isNaN]

theorem sub_nan_operand (h : isNaN a = true ∨ isNaN b = true) : isNaN (sub a b) = true := by
  rw [sub, sum_nan_operand _ (by simpa using h), nanOf_isNaN]

theorem mul_nan_operand (h : isNaN a = true ∨ isNaN b = true) : isNaN (mul a b) = true := by
  simp [mul, h, nanOf_isNaN]

theorem div_nan_operand (h : isNaN a = true ∨ isNaN b = true) : isNaN (div a b) = true := by
  simp [div, h, nanOf_isNaN]

/-- Two infinities of different signs have no sum. -/
theorem sum_inf_inf (nan : F64) (ha : isInf a = true) (hb : isInf b = true) (hs : isNeg a ≠ isNeg b) :
    sum nan a b = nan := by
  simp [sum, ha, hb, isNaN_of_isInf, hs]

theorem add_inf_neg_inf (ha : isInf a = true) : isNaN (add a (neg a)) = true := by
  rw [add, sum_inf_inf _ ha (by simpa using ha) (by simp [isNeg_neg]), nanOf_isNaN]

theorem sub_inf_inf (ha : isInf a = true) : isNaN (sub a a) = true := by
  rw [sub, sum_inf_inf _ ha (by simpa using ha) (by simp [isNeg_neg]), nanOf_isNaN]

theorem div_inf_inf (ha : isInf a = true) (hb : isInf b = true) : isNaN (div a b) = true := by
  simp [div, ha, hb, nanOf_isNaN]

theorem mul_zero_inf (ha : isZero a = true) (hb : isInf b = true) :
    isNaN (mul a b) = true ∧ isNaN (mul b a) = true := by
  have hf := isInf_of_finite (isFinite_of_isZero ha)
  simp [mul, ha, hb, hf, nanOf_isNaN]

end

/-! ### The exact remainder (rule R11) -/

/-- The remainder of two finite magnitudes is a finite magnitude: a multiple of the finer spacing of the two,
below both the divisor and the dividend. -/
theorem mod_scaled {x y : F64} (hx : isFinite x = true) (hy : isFinite y = true) (h0 : 0 < mag y) :
    ∃ c j, mag x % mag y = c * 2 ^ j ∧ c < 2 ^ 53 ∧ j ≤ 2045 := by
  obtain ⟨cx, jx, hmx, hcx, hjx, -⟩ := exists_scaled hx
  obtain ⟨cy, jy, hmy, hcy, hjy, -⟩ := exists_scaled hy
  rw [hmy] at h0
  rw [hmx, hmy]
  rcases le_total jy jx with hj | hj
  · refine ⟨cx * 2 ^ (jx - jy) % cy, jy, ?_, ?_, hjy⟩
    · rw [← Nat.mul_mod_mul_right, Nat.mul_assoc, ← pow_add, Nat.sub_add_cancel hj]
    · exact (Nat.mod_lt _ (Nat.pos_of_mul_pos_right h0)).trans hcy
  · refine ⟨cx % (cy * 2 ^ (jy - jx)), jx, ?_, ?_, hjx⟩
    · rw [← Nat.mul_mod_mul_right, Nat.mul_assoc, ← pow_add, Nat.sub_add_cancel hj]
    · exact (Nat.mod_le ..).trans_lt hcx

theorem fmod_of_finite {x y : F64} (hx : isFinite x = true) (hy : isFinite y = true) (h0 : isZero y = false) :
    fmod x y = roundRatio (isNeg x) (mag x % mag y) 1 := by
  simp [fmod, isNaN_of_finite hx, isNaN_of_finite hy, isInf_of_finite hx, isInf_of_finite hy, h0]

theorem fmod_exact {x y : F64} (hx : isFinite x = true) (hy : isFinite y = true) (h0 : isZero y = false) :
    isFinite (fmod x y) = true ∧ mag (fmod x y) = mag x % mag y := by
  obtain ⟨c, j, hm, hc, hj⟩ := mod_scaled hx hy (Nat.pos_of_ne_zero (by simpa [isZero] using h0))
  rw [fmod_of_finite hx hy h0, hm]
  exact roundRatio_exact _ hc hj

theorem fmod_isNeg {x y : F64} (hx : isFinite x = true) (hy : isFinite y = true) (h0 : isZero y = false) :
    isNeg (fmod x y) = isNeg x := by
  rw [fmod_of_finite hx hy h0, roundRatio_isNeg]

/-- The truncated remainder has the dividend's sign and the remainder of the magnitudes. -/
theorem units_tmod (x y : F64) :
    (units x).tmod (units y) = if isNeg x then -((mag x % mag y : Nat) : Int) else ((mag x % mag y : Nat) : Int) := by
  unfold units
  split <;> split <;> simp [Int.neg_tmod, Int.tmod_neg, Int.tmod_eq_emod_of_nonneg]

end Sys2Proof.F64
end

section
/-! PROOFS. The statements on rounding, arithmetic and `fmod` (rules R8, R11). -/

namespace Sys2Proof.F64

open Sys2Proof.Claims

/-- Settles O57: the significand at the ratio's spacing is a nearest integer, and the values below the
ratio's binade are farther away than its lower end. -/
theorem roundingIsToNearestEven : Obligations.RoundingIsToNearestEven := by
  intro neg num den hden
  refine ⟨roundRatio_isNeg .., roundRatio_isInf_iff neg hden, fun hinf => ?_⟩
  have hlt : num < (2 ^ 54 - 1) * 2 ^ 2044 * den := by
    rw [← not_le, ← roundRatio_isInf_iff neg hden, hinf]
    decide
  exact ⟨roundRatio_isFinite neg hlt, fun y hy => roundRatio_nearest neg hlt hy⟩

/-- Settles O58: each operation rounds the exact ratio of its finite operands once; the special cases are
read off its branches. -/
theorem arithmeticIsCorrectlyRounded : Obligations.ArithmeticIsCorrectlyRounded := by
  refine ⟨fun a b ha hb => ?_, fun a b h => ?_, fun a b ha hb => ?_, fun a b => mul_zero_inf⟩
  · exact ⟨add_correctlyRounded ha hb, sub_correctlyRounded ha hb, mul_correctlyRounded ha hb,
      div_correctlyRounded ha hb, add_isNeg_of_zero ha hb, sub_isNeg_of_zero ha hb, mul_isNeg ha hb,
      div_isNeg ha hb, div_zero_isInf ha hb, zero_div_zero_isNaN ha hb⟩
  · exact ⟨add_nan_operand h, sub_nan_operand h, mul_nan_operand h, div_nan_operand h⟩
  · exact ⟨div_inf_inf ha hb, add_inf_neg_inf ha, sub_inf_inf ha⟩

/-- Settles O59: the remainder of the magnitudes is itself a magnitude, so its rounding is exact. -/
theorem fmodIsExact : Obligations.FmodIsExact := by
  intro x y hx hy h0
  obtain ⟨hfin, hmag⟩ := fmod_exact hx hy h0
  refine ⟨hfin, ?_, fmod_isNeg hx hy h0⟩
  rw [units_tmod, units, fmod_isNeg hx hy h0, hmag]

end Sys2Proof.F64
end

section
/-! PROOFS. Ranges: the rounding of a ratio between two finite values stays between them, so each operation's
result is bounded by its exact result's bounds (rule R8). -/

namespace Sys2Proof.F64

open Sys2Proof.Claims

/-! ### Ranges -/

theorem within_iff {x lo hi : F64} :
    Within x lo hi ↔ isNaN lo = false ∧ isNaN x = false ∧ isNaN hi = false ∧
      units lo ≤ units x ∧ units x ≤ units hi := by
  simp only [Within, le_iff]
  tauto

theorem units_le_mag (x : F64) : units x ≤ mag x ∧ -(mag x : Int) ≤ units x := by
  unfold units
  split <;> omega

theorem overflow_le_mag_of_isInf {x : F64} (h : isInf x = true) : (2 ^ 54 - 1) * 2 ^ 2044 ≤ mag x := by
  simp only [isInf, Bool.and_eq_true, beq_iff_eq] at h
  obtain ⟨he, hf⟩ := h
  have hP : 2 ^ 2046 = 2 ^ 2044 * 2 ^ 2 := by rw [← pow_add]
  rw [mag, he, hf, if_neg (by decide), hP]
  generalize 2 ^ 2044 = P
  omega

/-- Between two finite values there are only finite ones. -/
theorem isFinite_of_within {x lo hi : F64} (hlo : isFinite lo = true) (hhi : isFinite hi = true)
    (h : Within x lo hi) : isFinite x = true := by
  obtain ⟨-, hn, -, h1, h2⟩ := within_iff.1 h
  refine isFinite_of_not_nan_inf hn (Bool.eq_false_iff.2 fun hinf => ?_)
  have hx := overflow_le_mag_of_isInf hinf
  have hl := mag_lt_overflow hlo
  have hh := mag_lt_overflow hhi
  have hla := units_le_mag lo
  have hha := units_le_mag hi
  rw [← units_natAbs x] at hx
  generalize (2 ^ 54 - 1) * 2 ^ 2044 = T at *
  omega

/-- The rounding of a ratio between two finite values is finite and between them: neither is farther from the
ratio than a value beyond it. -/
theorem within_of_correctlyRounded {r lo hi : F64} {n : Int} {d : Nat} (h : CorrectlyRounded r n d)
    (hd : 0 < d) (hlo : isFinite lo = true) (hhi : isFinite hi = true) (h1 : units lo * d ≤ n)
    (h2 : n ≤ units hi * d) : Within r lo hi := by
  obtain ⟨hinf, hfin, -, -, hnear⟩ := h
  have hd' : (0 : Int) < d := by exact_mod_cast hd
  have hr : isFinite r = true := by
    refine hfin (Bool.eq_false_iff.2 fun hi' => ?_)
    have hT := (overflow_cast n d).1 (hinf.1 hi')
    have hl := Nat.mul_lt_mul_of_pos_right (mag_lt_overflow hlo) hd
    have hh := Nat.mul_lt_mul_of_pos_right (mag_lt_overflow hhi) hd
    rw [units_mul_natCast] at h1 h2
    generalize (2 ^ 54 - 1) * 2 ^ 2044 * d = T at *
    split at h1 <;> split at h2 <;> omega
  have hln := (hnear hr lo hlo).1
  have hhn := (hnear hr hi hhi).1
  refine within_iff.2 ⟨isNaN_of_finite hlo, isNaN_of_finite hr, isNaN_of_finite hhi, ?_, ?_⟩
  · by_contra hc
    have := Int.mul_lt_mul_of_pos_right (not_le.1 hc) hd'
    rw [abs_of_nonpos (by omega), abs_of_nonpos (by omega)] at hln
    omega
  · by_contra hc
    have := Int.mul_lt_mul_of_pos_right (not_le.1 hc) hd'
    rw [abs_of_nonneg (by omega), abs_of_nonneg (by omega)] at hhn
    omega

section

variable {a b lo hi : F64} (ha : isFinite a = true) (hb : isFinite b = true) (hlo : isFinite lo = true)
  (hhi : isFinite hi = true)

include ha hb hlo hhi

theorem add_within (h1 : units lo ≤ units a + units b) (h2 : units a + units b ≤ units hi) :
    Within (add a b) lo hi :=
  within_of_correctlyRounded (add_correctlyRounded ha hb) one_pos hlo hhi (by simpa using h1)
    (by simpa using h2)

theorem sub_within (h1 : units lo ≤ units a - units b) (h2 : units a - units b ≤ units hi) :
    Within (sub a b) lo hi :=
  within_of_correctlyRounded (sub_correctlyRounded ha hb) one_pos hlo hhi (by simpa using h1)
    (by simpa using h2)

theorem mul_within (h1 : units lo * 2 ^ 1074 ≤ units a * units b)
    (h2 : units a * units b ≤ units hi * 2 ^ 1074) : Within (mul a b) lo hi :=
  within_of_correctlyRounded (mul_correctlyRounded ha hb) (by positivity) hlo hhi
    (by rw [Nat.cast_pow]; exact h1) (by rw [Nat.cast_pow]; exact h2)

theorem div_within (hpos : 0 < units b) (h1 : units lo * units b ≤ units a * 2 ^ 1074)
    (h2 : units a * 2 ^ 1074 ≤ units hi * units b) : Within (div a b) lo hi := by
  have hnat : ((units b).natAbs : Int) = units b := by omega
  have hr := div_correctlyRounded ha hb (isZero_eq_false.2 hpos.ne')
  rw [Int.sign_eq_one_of_pos hpos, Int.mul_one] at hr
  exact within_of_correctlyRounded hr (by omega) hlo hhi (by rwa [hnat]) (by rwa [hnat])

end

/-- A range that is symmetric about zero is closed under the sign flip. -/
theorem neg_within {x b : F64} (h : Within x (neg b) b) : Within (neg x) (neg b) b := by
  rw [within_iff] at *
  simp only [isNaN_neg, units_neg] at *
  obtain ⟨hb, hx, -, h1, h2⟩ := h
  exact ⟨hb, hx, hb, by omega, by omega⟩

/-! ### Constants -/

@[simp] theorem units_zero : units zero = 0 := by decide

@[simp] theorem units_one : units one = 2 ^ 1074 := by decide +kernel

theorem isFinite_zero : isFinite zero = true := by decide

theorem isFinite_one : isFinite one = true := by decide

theorem unit_symmetric : le negOne one = true := by decide +kernel

theorem halfPi_symmetric : le (neg halfPi) halfPi = true := by decide +kernel

end Sys2Proof.F64
end

section
/-! PROOFS. The open functions' properties and what the waveforms and the cutoff have from them (rules R10, R12,
R101 to R107, R235). -/

namespace Sys2Proof.Machine

open F64 Sys2Proof.Claims

/-! ### The limits put on the open functions (rules R10, R12) -/

theorem clamp_within {x lo hi : F64} (h : le lo hi = true) : Within (clamp x lo hi) lo hi :=
  clamp_range h

theorem unit_within_one : Within one negOne one := ⟨unit_symmetric, F64.le_refl (by decide)⟩

theorem unit_within_negOne : Within negOne negOne one := ⟨F64.le_refl (by decide), unit_symmetric⟩

theorem unit_within_zero : Within zero negOne one := ⟨by decide +kernel, by decide +kernel⟩

theorem halfPi_within_zero : Within zero (neg halfPi) halfPi := ⟨by decide +kernel, by decide +kernel⟩

theorem halfPi_within_self : Within halfPi (neg halfPi) halfPi :=
  ⟨halfPi_symmetric, F64.le_refl (by decide +kernel)⟩

theorem fsin_within {x : F64} (h : isFinite x = true) : Within (fsin x) negOne one := by
  rw [fsin, h, if_neg (by decide)]
  split
  · exact unit_within_zero
  · exact clamp_within unit_symmetric

theorem fcos_within {x : F64} (h : isFinite x = true) : Within (fcos x) negOne one := by
  rw [fcos, h, if_neg (by decide)]
  split
  · exact unit_within_one
  · exact clamp_within unit_symmetric

theorem fsin_isNaN {x : F64} (h : isFinite x = false) : isNaN (fsin x) = true := by
  rw [fsin, h, if_pos (by decide), asNaN_isNaN]

theorem fcos_isNaN {x : F64} (h : isFinite x = false) : isNaN (fcos x) = true := by
  rw [fcos, h, if_pos (by decide), asNaN_isNaN]

theorem fasin_within {x : F64} (h : Within x negOne one) : Within (fasin x) (neg halfPi) halfPi := by
  obtain ⟨hlo, hhi⟩ := h
  rw [fasin, (le_iff.1 hhi).1, if_neg (by decide)]
  split
  · exact halfPi_within_zero
  split
  · exact halfPi_within_self
  split
  · exact neg_within halfPi_within_self
  rw [hlo, hhi, if_pos (by decide)]
  exact clamp_within halfPi_symmetric

theorem fsin_zero : fsin zero = zero := by
  rw [fsin, isFinite_zero, if_neg (by decide), if_pos rfl]

theorem fcos_zero : fcos zero = one := by
  rw [fcos, isFinite_zero, if_neg (by decide), if_pos rfl]

theorem fasin_zero : fasin zero = zero := by
  rw [fasin, if_neg (by decide), if_pos rfl]

theorem fasin_one : fasin one = halfPi := by
  rw [fasin, if_neg (by decide), if_neg (by decide), if_pos (by decide +kernel)]

theorem fasin_negOne : fasin negOne = neg halfPi := by
  rw [fasin, if_neg (by decide), if_neg (by decide), if_neg (by decide +kernel), if_pos (by decide +kernel)]

theorem fatan_zero : fatan zero = zero := by
  simp [fatan, show isZero zero = true by decide, show isNeg zero = false by decide]

theorem fasin_isNaN {x : F64} (h : isNaN x = true) : isNaN (fasin x) = true := by
  rw [fasin, if_pos h, asNaN_isNaN]

/-- FATAN is odd: the sign is put on a value of the magnitude alone. -/
theorem fatan_neg (x : F64) : fatan (neg x) = neg (fatan x) := by
  simp only [fatan, isZero_neg, abs_neg_eq, isNeg_neg]
  cases isNeg x <;> simp [neg_neg_eq]

theorem fatan_within (x : F64) : Within (fatan x) (neg halfPi) halfPi := by
  have hm : Within (if isZero x then zero else clamp (Config.freeAtan (F64.abs x)) (neg halfPi) halfPi)
      (neg halfPi) halfPi := by
    split
    · exact halfPi_within_zero
    · exact clamp_within halfPi_symmetric
  rw [fatan]
  split
  · exact neg_within hm
  · exact hm

theorem ftan_finite_pos {x : F64} (h1 : lt zero x = true) (h2 : lt x halfPi = true) :
    isFinite (ftan x) = true ∧ lt zero (ftan x) = true := by
  rw [ftan, h1, h2]
  split
  · exact ⟨by decide, by decide +kernel⟩
  · simp_all

/-! ### FEXP2 at the integers -/

/-- A power of two of the normal range is its exponent field. -/
theorem powTwo_finite_units {k : Int} (h1 : -1022 ≤ k) (h2 : k ≤ 1023) :
    isFinite (powTwo k) = true ∧ units (powTwo k) = 2 ^ (k + 1074).toNat := by
  have hp : powTwo k = withSign false ((k + 1022).toNat * 2 ^ 52 + 2 ^ 52) := by
    rw [powTwo, withSign, if_neg (by decide),
      show (k + 1023).toNat * 2 ^ 52 = (k + 1022).toNat * 2 ^ 52 + 2 ^ 52 by omega]
  have hlt : (k + 1022).toNat * 2 ^ 52 + 2 ^ 52 < 2 ^ 63 := by omega
  constructor
  · rw [isFinite_iff, hp, withSign_expo false hlt]
    omega
  · rw [hp, units_of_not_isNeg (withSign_isNeg false hlt),
      mag_withSign_scaled false (by omega) (.inr (by omega)) hlt, ← pow_add,
      show 52 + (k + 1022).toNat = (k + 1074).toNat by omega]
    push_cast
    rfl

theorem powTwo_pos {k : Int} (h1 : -1022 ≤ k) (h2 : k ≤ 1023) : lt zero (powTwo k) = true := by
  obtain ⟨hfin, hu⟩ := powTwo_finite_units h1 h2
  rw [lt_iff, hu, units_zero]
  exact ⟨by decide, isNaN_of_finite hfin, by positivity⟩

theorem fexp2_pos {x : F64} (h : isFinite x = true) : lt zero (fexp2 x) = true := by
  rw [fexp2, h, if_neg (by decide)]
  split
  next hk =>
    obtain ⟨-, h1, h2⟩ := hk
    exact powTwo_pos h1 h2
  split
  · assumption
  · decide +kernel

theorem trunc_of_whole {x : F64} {k : Int} (h : units x = k * 2 ^ 1074) :
    mag x % oneUnits = 0 ∧ trunc x = k := by
  constructor
  · rw [← units_natAbs, h, natAbs_mul_oneUnits, Nat.mul_mod_left]
  · rw [trunc, h, oneUnits, Nat.cast_pow]
    exact Int.mul_tdiv_cancel k (by positivity)

theorem fexp2_whole {x : F64} {k : Int} (h : isFinite x = true) (hu : units x = k * 2 ^ 1074)
    (h1 : -1022 ≤ k) (h2 : k ≤ 1023) : fexp2 x = powTwo k := by
  obtain ⟨hm, ht⟩ := trunc_of_whole hu
  rw [fexp2, h, if_neg (by decide), ht, if_pos ⟨hm, h1, h2⟩]

theorem noiseDraw_within (k : Nat) : Within (noiseDraw k) negOne one := clamp_within unit_symmetric

/-- Settles O60: each open function is a free value limited to the range R10 or R12 gives, at the operands
they name. -/
theorem openFunctionsHaveTheirProperties : Obligations.OpenFunctionsHaveTheirProperties := by
  refine ⟨fun x h => ⟨fsin_within h, fcos_within h⟩, fun x h => ⟨fsin_isNaN h, fcos_isNaN h⟩, ?_, ?_,
    fun x => fasin_within, ?_, ?_, ?_, fun x => fasin_isNaN, fun x => ⟨fatan_within x, fatan_neg x⟩, ?_,
    fun x => ftan_finite_pos, fun x => fexp2_pos, fun x k h hu h1 h2 => ?_, noiseDraw_within⟩
  · exact fsin_zero
  · exact fcos_zero
  · exact fasin_zero
  · exact fasin_one
  · exact fasin_negOne
  · exact fatan_zero
  · rw [fexp2_whole h hu h1 h2]
    exact powTwo_finite_units h1 h2

/-! ### Waveforms and the cutoff (rules R101 to R107, R235) -/

theorem squareOf_within (tie : SqTie) (s : F64) : Within (squareOf tie s) negOne one := by
  unfold squareOf
  split
  · exact unit_within_one
  split
  · exact unit_within_negOne
  cases tie
  · exact unit_within_negOne
  · exact unit_within_zero
  · exact unit_within_one

theorem twoPi_eq : twoPi = ⟨0x401921FB54442D18#64⟩ := by decide +kernel

/-- Settles O54: the bounds of FSIN, FASIN and the draws, read through the waveform's branches. -/
theorem rawWaveformsStayInTheirBounds : Obligations.RawWaveformsStayInTheirBounds := by
  intro tie o f t ph k hph
  have hsine : sineVal openFns f t o.fm = fsin ph := by rw [hph, ← twoPi_eq]; rfl
  have hdraw : openFns.draw = noiseDraw := rfl
  have hasin : openFns.fasin = fasin := rfl
  unfold rawWave
  rw [hsine, hdraw, hasin]
  refine ⟨?_, fun hfin => ⟨?_, ?_⟩, fun hfin => ?_⟩
  · rintro (hw | hw) <;> rw [hw]
    · exact squareOf_within tie _
    · exact noiseDraw_within k
  · intro hw
    rw [hw]
    exact fsin_within hfin
  · intro hw
    rw [hw]
    exact fasin_within (fsin_within hfin)
  · rintro (hw | hw) <;> rw [hw]
    · exact fsin_isNaN hfin
    · exact fasin_isNaN (fsin_isNaN hfin)

/-- Settles O55: the cutoff is the last clamp's result, and a clamp of a NaN is its lower bound. -/
theorem effectiveCutoffStaysInRange : Obligations.EffectiveCutoffStaysInRange := by
  intro F x cutoff out
  have hrange : le Config.fcMin Config.fcMax = true := by decide +kernel
  exact clamp_within hrange

end Sys2Proof.Machine
end

section
/-! PROOFS. What executing a command can do, as one inductive of the states it can leave, so that an invariant
is proved once for each kind of effect and not for each command (rules R110 to R267, R284). -/

namespace Sys2Proof.Machine

open F64 Sys2Proof.Claims

/-! ### What a command can do -/

/-- The states a command can leave, by the registers it can write: one constructor per register group, each
with what its setters keep true of the group (rules R110 to R267, R284). -/
inductive Effect (i : Instr) (s : State) : State → Prop
  /-- An error, NOP and STATUS_CLR. -/
  | status (st : BitVec 5) : Effect i s { s with status := st }
  | osc (j : Fin 3) (upd : Osc → Osc) (h : ∀ o, OscOk o → OscOk (upd o)) : Effect i s (s.updOsc j upd)
  | env (upd : Env → Env) (h : ∀ v, EnvOk v → EnvOk (upd v)) : Effect i s { s with env := upd s.env }
  | flt (upd : Flt → Flt) (h : ∀ v, FltOk v s.shp → FltOk (upd v) s.shp) :
      Effect i s { s with flt := upd s.flt }
  | shp (upd : Shp → Shp) (h : ∀ v, FltOk s.flt v → FltOk s.flt (upd v)) :
      Effect i s { s with shp := upd s.shp }
  | master (d : F64) (h : d.isFinite = true) : Effect i s { s with master := d }
  | time (d : F64) : Effect i s { s with T := d }
  /-- ROUTE_SET: a row of the mixer column is set by the command `setsMixer` names alone. -/
  | route (src : Fin 5) (r : Fin 9) (v : Bool) (h : r = 8 ∧ v = true → setsMixer i) :
      Effect i s (s.updRoute src (routeRow r v))
  | noteOn (n : BitVec 7) : Effect i s (noteOn n s)
  | noteOff (n : BitVec 7) : Effect i s (noteOff n s)
  | frame : Effect i s (frame openFns s)
  | read (a : BitVec 16) : Effect i s (readRegister a s)
  | reset : Effect i s (resetRegisters s)

section

variable {i : Instr} {s t : State}

theorem Effect.raise (e : Err) : Effect i s (raise e s) := .status _

theorem Effect.refl : Effect i s s := .status s.status

theorem command_effect {r : Option State} (h : command r s = .next t)
    (hr : ∀ u, r = some u → Effect i s u) : Effect i s t := by
  rcases command_next.1 h with hs | ⟨-, rfl⟩
  · exact hr t hs
  · exact .raise _

theorem commandD_effect {r : Option State} {d : F64} (h : commandD r d s = .next t)
    (hr : d.isFinite = true → ∀ u, r = some u → Effect i s u) : Effect i s t := by
  rcases commandD_next.1 h with ⟨hs, hd⟩ | ⟨-, rfl⟩ | ⟨-, -, rfl⟩
  · exact hr hd t hs
  · exact .raise _
  · exact .raise _

/-- An operand the command does not refuse, and then the rest of the command. -/
theorem bind_effect {α : Type} {o : Option α} {g : α → Option State}
    (h : ∀ v, o = some v → ∀ u, g v = some u → Effect i s u) (u : State) (hu : (o >>= g) = some u) :
    Effect i s u := by
  obtain ⟨v, hv, hg⟩ := Option.bind_eq_some_iff.1 hu
  exact h v hv u hg

theorem some_effect {t' : State} (h : Effect i s t') (u : State) (hu : some t' = some u) : Effect i s u :=
  Option.some.inj hu ▸ h

theorem setOscNum_effect {f : Fields} {d : F64} {upd : Osc → Osc} (h : setOscNum f d upd s = .next t)
    (hu : d.isFinite = true → ∀ o, OscOk o → OscOk (upd o)) : Effect i s t :=
  commandD_effect h fun hd => bind_effect fun j _ => bind_effect fun _ _ => bind_effect fun _ _ =>
    some_effect (.osc j upd (hu hd))

theorem setOscFlag_effect {f : Fields} {upd : Bool → Osc → Osc} (h : setOscFlag f upd s = .next t)
    (hu : ∀ v o, OscOk o → OscOk (upd v o)) : Effect i s t :=
  command_effect h <| bind_effect fun j _ => bind_effect fun _ _ => bind_effect fun v _ =>
    some_effect (.osc j (upd v) (hu v))

/-- A format-HD command with the data operand alone. -/
theorem dataOnly_effect {f : Fields} {d : F64} {t' : State}
    (h : commandD (do noOperands f; some t') d s = .next t) (hu : d.isFinite = true → Effect i s t') :
    Effect i s t :=
  commandD_effect h fun hd => bind_effect fun _ _ => some_effect (hu hd)

/-- A format-H command without an operand. -/
theorem noOperands_effect {f : Fields} {t' : State}
    (h : command (do noOperands f; some t') s = .next t) (hu : Effect i s t') : Effect i s t :=
  command_effect h <| bind_effect fun _ _ => some_effect hu

/-- A command with the immediate operand alone. -/
theorem immOnly_effect {α : Type} {f : Fields} {form : Option α} {g : α → State}
    (h : command (do unused f.a; unused f.b; let v ← form; some (g v)) s = .next t)
    (hu : ∀ v, Effect i s (g v)) : Effect i s t :=
  command_effect h <| bind_effect fun _ _ => bind_effect fun _ _ => bind_effect fun v _ => some_effect (hu v)

theorem clampWindow_ok {d : F64} (h : d.isFinite = true) :
    (clampWindow d).isFinite = true ∧ le zero (clampWindow d) = true := by
  unfold clampWindow
  split
  · exact ⟨h, by assumption⟩
  · decide

theorem unit_range : le zero one = true := by decide +kernel

theorem q_range : le Config.qMin Config.qMax = true := by decide +kernel

/-- Every command leaves one of the states `Effect` lists. -/
theorem exec_effect (h : exec i s = .next t) : Effect i s t := by
  cases i with
  | nop f => exact noOperands_effect h .refl
  | oscWave f =>
    exact command_effect h <| bind_effect fun j _ => bind_effect fun _ _ => bind_effect fun w _ =>
      some_effect <| .osc j (fun o => { o with wave := w }) fun o ho => { ho with }
  | oscVolume f d => exact setOscNum_effect h fun hd o ho => { ho with volume := hd }
  | oscGain f d =>
    refine commandD_effect h fun hd => bind_effect fun j _ => bind_effect fun _ _ => some_effect <|
      .osc j (fun o => { o with gain := o.gain.set (chForm f.b) d }) fun o ho => { ho with gain := fun k => ?_ }
    simp only [Fin.getElem_fin, Vector.getElem_set]
    split
    · exact hd
    · exact ho.gain k
  | oscFreq f d => exact setOscNum_effect h fun hd o ho => { ho with freq := hd }
  | oscFine f d => exact setOscNum_effect h fun hd o ho => { ho with fine := hd }
  | oscOctave f =>
    obtain ⟨hlo, hhi⟩ := octaveForm_range f.imm
    exact command_effect h <| bind_effect fun j _ => bind_effect fun _ _ => some_effect <|
      .osc j (fun o => { o with octave := octaveForm f.imm })
        fun o ho => { ho with octave_lo := hlo, octave_hi := hhi }
  | oscDrone f => exact setOscFlag_effect h fun v o ho => { ho with }
  | oscLfo f => exact setOscFlag_effect h fun v o ho => { ho with }
  | oscFm f d => exact setOscNum_effect h fun hd o ho => { ho with }
  | oscAm f d => exact setOscNum_effect h fun hd o ho => { ho with }
  | envAttack f d =>
    refine dataOnly_effect h fun hd => .env (fun v => { v with attack := clampWindow d }) fun v hv => ?_
    obtain ⟨hfin, hnn⟩ := clampWindow_ok hd
    exact { hv with attack_finite := hfin, attack_nonneg := hnn }
  | envDecay f d =>
    refine dataOnly_effect h fun hd => .env (fun v => { v with decay := clampWindow d }) fun v hv => ?_
    obtain ⟨hfin, hnn⟩ := clampWindow_ok hd
    exact { hv with decay_finite := hfin, decay_nonneg := hnn }
  | envSustain f d =>
    refine dataOnly_effect h fun hd => .env (fun v => { v with sustain := clamp d zero one }) fun v hv => ?_
    obtain ⟨hlo, hhi⟩ := clamp_range (x := d) unit_range
    exact { hv with sustain_lo := hlo, sustain_hi := hhi }
  | envRelease f d =>
    refine dataOnly_effect h fun hd => .env (fun v => { v with release := clampWindow d }) fun v hv => ?_
    obtain ⟨hfin, hnn⟩ := clampWindow_ok hd
    exact { hv with release_finite := hfin, release_nonneg := hnn }
  | routeSet f =>
    refine command_effect h <| bind_effect fun src _ => bind_effect fun r hb => bind_effect fun v hi =>
      some_effect <| .route src r v ?_
    rw [routeForm_eq_some] at hb
    rw [flagForm_eq_some] at hi
    rintro ⟨rfl, rfl⟩
    exact ⟨rfl, BitVec.eq_of_toNat_eq hb, BitVec.eq_of_toNat_eq hi⟩
  | fltCutoff f d =>
    exact dataOnly_effect h fun hd => .flt (fun v => { v with cutoff := d }) fun v hv => { hv with cutoff := hd }
  | fltRes f d =>
    refine dataOnly_effect h fun hd =>
      .flt (fun v => { v with res := clamp d Config.qMin Config.qMax }) fun v hv => ?_
    obtain ⟨hlo, hhi⟩ := clamp_range (x := d) q_range
    exact { hv with res_lo := hlo, res_hi := hhi }
  | fltPoles f => exact immOnly_effect h fun p => .flt (fun v => { v with poles := p }) fun v hv => { hv with }
  | fltMode f => exact immOnly_effect h fun m => .flt (fun v => { v with mode := m }) fun v hv => { hv with }
  | shpClipEn f => exact immOnly_effect h fun b => .shp (fun v => { v with clipEn := b }) fun v hv => { hv with }
  | shpClipPos f d =>
    exact dataOnly_effect h fun hd => .shp (fun v => { v with clipPos := d }) fun v hv => { hv with clipPos := hd }
  | shpClipNeg f d =>
    exact dataOnly_effect h fun hd => .shp (fun v => { v with clipNeg := d }) fun v hv => { hv with clipNeg := hd }
  | shpCrush f => exact immOnly_effect h fun b => .shp (fun v => { v with crush := b }) fun v hv => { hv with }
  | mixMaster f d => exact dataOnly_effect h fun hd => .master d hd
  | noteOn f => exact immOnly_effect h fun n => .noteOn n
  | noteOff f => exact immOnly_effect h fun n => .noteOff n
  | frame f => exact noOperands_effect h .frame
  | timeSet f d => exact dataOnly_effect h fun _ => .time d
  | read f =>
    exact command_effect h <| bind_effect fun _ _ => bind_effect fun _ _ => some_effect (.read f.imm)
  | statusClr f => exact immOnly_effect h fun m => .status _
  | softReset f => exact noOperands_effect h .reset

end

end Sys2Proof.Machine
end

section
/-! PROOFS. A step answers a next state, has one command's effect on the state without the words it consumes,
and only extends what was emitted (rules R13, R66, R92, R281). -/

namespace Sys2Proof.Machine

open F64 Sys2Proof.Claims

/-! ### Every command and step answers a next state (rules R13, R281) -/

theorem command_answers (r : Option State) (s : State) : ∃ t, command r s = .next t := by
  cases r with
  | none => exact ⟨_, rfl⟩
  | some t => exact ⟨t, rfl⟩

theorem commandD_answers (r : Option State) (d : F64) (s : State) : ∃ t, commandD r d s = .next t := by
  cases r with
  | none => exact ⟨_, rfl⟩
  | some t =>
    cases hd : d.isFinite
    · exact ⟨_, commandD_some_nonfinite t s hd⟩
    · exact ⟨t, commandD_some_finite t s hd⟩

theorem exec_answers (i : Instr) (s : State) : ∃ t, exec i s = .next t := by
  obtain ⟨r, hr, -⟩ := exec_format i s
  rw [hr]
  cases i.data with
  | none => exact command_answers r s
  | some d => exact commandD_answers r d s

theorem step_answers (s : State) : ∃ t, step s = .next t := by
  rcases step_cases s with ⟨-, h⟩ | ⟨_, -, h⟩ | ⟨_, -, h⟩ | ⟨i, rest, -, h⟩
  · exact ⟨_, h⟩
  · exact ⟨_, h⟩
  · exact ⟨_, h⟩
  · rw [h]
    exact exec_answers i _

/-- Settles O8: both formats answer a next state whatever their operands. -/
theorem nothingStopsTheBlock : Obligations.NothingStopsTheBlock :=
  ⟨exec_answers, step_answers⟩

/-! ### What a step can do -/

theorem afterWords_suffix (input : List HostInput) : afterWords input <:+ input :=
  ⟨_, leadingWords_afterWords input⟩

/-- What the block takes from its input leaves a suffix of it. -/
theorem fetch_suffix (input : List HostInput) :
    (∀ i rest, fetch input = .command i rest → decode (leadingWords input) = .ok i ∧ rest <:+ input) ∧
    (∀ rest, fetch input = .illegal rest → rest <:+ input) ∧
    (∀ rest, fetch input = .hardReset rest → rest <:+ input) := by
  unfold fetch
  split
  next i hd => simp [hd, List.drop_suffix]
  next => simp [List.tail_suffix]
  next =>
    split
    next rest ha =>
      have hs : rest <:+ input := (List.suffix_cons ..).trans (ha ▸ afterWords_suffix input)
      simp_all
    next => simp

/-- A step consumes some of its input and has one command's effect on the state without it; only the command
decoded from the pending words can set a mixer cell. -/
theorem step_effect {s t : State} (h : step s = .next t) :
    ∃ i rest, rest <:+ s.input ∧ (setsMixer i → decode (leadingWords s.input) = .ok i) ∧
      Effect i { s with input := rest } t := by
  obtain ⟨hc, hill, hhard⟩ := fetch_suffix s.input
  have hnop : ¬setsMixer (.nop noFields) := by simp [setsMixer, Instr.parts]
  rcases step_cases s with ⟨-, hs⟩ | ⟨rest, hf, hs⟩ | ⟨rest, hf, hs⟩ | ⟨i, rest, hf, hs⟩ <;>
    rw [h] at hs
  · obtain rfl : t = s := by simpa using hs
    exact ⟨_, t.input, List.suffix_rfl, fun hm => absurd hm hnop, .refl⟩
  · obtain rfl : t = _ := by simpa using hs
    exact ⟨_, rest, hhard rest hf, fun hm => absurd hm hnop, .reset⟩
  · obtain rfl : t = _ := by simpa using hs
    exact ⟨_, rest, hill rest hf, fun hm => absurd hm hnop, .raise _⟩
  · obtain ⟨hd, hr⟩ := hc i rest hf
    exact ⟨i, rest, hr, fun _ => hd, exec_effect hs.symm⟩

/-! ### The draws only grow -/

section

variable (F : Fns) (x : Ctx)

theorem play_draws_le (tie : SqTie) (o : Osc) (f t : F64) (c : Fin 4) {k m : Nat} (h : m ≤ k) :
    m ≤ (play F tie o f t c k).2 := by
  unfold play rawWave
  cases o.wave
  case noise => exact h.trans (Nat.le_succ k)
  all_goals exact h

theorem noteSum_draws_le (o : Osc) {k m : Nat} (h : m ≤ k) : m ≤ (noteSum F x o k).2 := by
  unfold noteSum
  generalize hz : (zero, k) = z
  have hk : m ≤ z.2 := by rwa [← hz]
  clear hz
  induction x.held generalizing z with
  | nil => exact hk
  | cons n ns ih =>
    refine ih _ ?_
    dsimp only
    split
    next f _ =>
      dsimp only
      exact play_draws_le F x.cfg.sqTie o f x.t x.c hk
    next => exact hk

variable {p : Pass} {m : Nat} (h : m ≤ p.draws)

include h

theorem rawVoice_draws_le (i : Fin 3) : m ≤ (rawVoice F x p i).draws := by
  simp only [rawVoice, rawOutput]
  split
  · exact play_draws_le F _ _ _ _ _ h
  · exact noteSum_draws_le F x _ h

theorem reEvaluate_draws_le (j : Fin 3) : m ≤ (reEvaluate F x j p).draws := by
  unfold reEvaluate
  split
  · exact play_draws_le F _ _ _ _ x.c h
  · exact h

theorem pitchTarget_draws_le (j : Fin 3) : m ≤ (pitchTarget F x p j).draws := by
  unfold pitchTarget
  split
  · refine reEvaluate_draws_le F x ?_ j
    exact h
  · exact h

theorem ampTarget_draws_le (j : Fin 3) : m ≤ (ampTarget F x p j).draws := by
  unfold ampTarget
  split
  · refine reEvaluate_draws_le F x ?_ j
    exact h
  · exact h

end

section

variable (F : Fns)

theorem voices_draws_le {s : State} {m : Nat} (h : m ≤ s.draws) (e : F64) (c : Fin 4) :
    m ≤ (voices F s e c).draws :=
  foldl_oscillators (P := fun p => m ≤ p.draws) _
    (foldl_oscillators (P := fun p => m ≤ p.draws) _
      (foldl_oscillators (P := fun p => m ≤ p.draws) _ h
        fun _ i hq => rawVoice_draws_le F _ hq i)
      fun _ i hq => pitchTarget_draws_le F _ hq i)
    fun _ i hq => ampTarget_draws_le F _ hq i

theorem passes_draws_le (e : F64) (s : State) : s.draws ≤ (passes F e s).draws :=
  passes_induction (P := fun t => s.draws ≤ t.draws) s le_rfl
    fun _ c ht => voices_draws_le F ht e c

end

/-! ### What the key events, READ and FRAME write -/

/-- NOTE_ON writes HELD, the envelope and STATUS alone (rule R160). -/
theorem noteOn_writes (n : BitVec 7) (s : State) :
    ∃ held env st, noteOn n s = { s with held := held, env := env, status := st } := by
  unfold noteOn addNote
  split
  · exact ⟨_, _, _, rfl⟩
  split
  · exact ⟨_, _, _, rfl⟩
  split
  · exact ⟨_, _, _, rfl⟩
  · exact ⟨_, _, _, rfl⟩

/-- NOTE_OFF writes HELD and the envelope alone (rule R161). -/
theorem noteOff_writes (n : BitVec 7) (s : State) :
    ∃ held env, noteOff n s = { s with held := held, env := env } := by
  rcases noteOff_cases n s with ⟨-, h⟩ | ⟨-, -, h⟩ | ⟨-, -, h⟩
  · exact ⟨_, _, h⟩
  · exact ⟨_, _, h⟩
  · exact ⟨_, _, h⟩

/-- READ writes STATUS alone and emits one response (rule R264). -/
theorem readRegister_writes (a : BitVec 16) (s : State) :
    ∃ v st, readRegister a s = { s with status := st, responses := s.responses ++ [v] } := by
  rcases readRegister_cases a s with ⟨v, -, h⟩ | ⟨-, h⟩
  · exact ⟨_, _, h⟩
  · exact ⟨_, _, h⟩

/-- A frame by what it leaves: the passes' state, one frame emitted, ACTIVE cleared where the envelope is done,
time advanced. -/
theorem frame_eq (F : Fns) (s : State) :
    frame F s =
      { passes F (envAmp s.cfg.fs s.env s.N) s with
        frames := s.frames ++ [outputFrame (passes F (envAmp s.cfg.fs s.env s.N) s)]
        env := { s.env with active := s.env.active && !envDone s.cfg.fs s.env s.N }
        T := add s.T (dt s.cfg)
        N := s.N + 1#64 } := by
  simp [frame, envEndOfFrame_eq, advanceTime, emitFrame]

/-! ### What every effect keeps and extends -/

/-- The output only grows, the parameters stay, the draws do not rewind, the input stays: what an effect does to
the fields that are no registers. -/
structure Extends (s t : State) : Prop where
  cfg : t.cfg = s.cfg
  frames : s.frames <+: t.frames
  responses : s.responses <+: t.responses
  draws : s.draws ≤ t.draws
  input : t.input = s.input

theorem Extends.of_eq {s t : State} (hc : t.cfg = s.cfg) (hf : t.frames = s.frames)
    (hr : t.responses = s.responses) (hd : t.draws = s.draws) (hi : t.input = s.input) : Extends s t :=
  ⟨hc, hf ▸ List.prefix_rfl, hr ▸ List.prefix_rfl, hd.ge, hi⟩

theorem frame_extends (F : Fns) (s : State) : Extends s (frame F s) := by
  rw [frame_eq]
  exact ⟨passes_cfg .., List.prefix_append .., by simp, passes_draws_le .., passes_input ..⟩

theorem Effect.extends {i : Instr} {s t : State} (h : Effect i s t) : Extends s t := by
  cases h with
  | status | osc | env | flt | shp | master | time | route | reset => exact .of_eq rfl rfl rfl rfl rfl
  | noteOn n =>
    obtain ⟨held, env, st, h⟩ := noteOn_writes n s
    rw [h]
    exact .of_eq rfl rfl rfl rfl rfl
  | noteOff n =>
    obtain ⟨held, env, h⟩ := noteOff_writes n s
    rw [h]
    exact .of_eq rfl rfl rfl rfl rfl
  | frame => exact frame_extends openFns s
  | read a =>
    obtain ⟨v, st, h⟩ := readRegister_writes a s
    rw [h]
    exact ⟨rfl, List.prefix_rfl, List.prefix_append .., le_rfl, rfl⟩

/-- Settles O9: an effect only extends the output and the draws, and the input left is a suffix. -/
theorem stepsOnlyExtendTheOutput : Obligations.StepsOnlyExtendTheOutput := by
  intro s t h
  obtain ⟨i, rest, hrest, -, heff⟩ := step_effect h
  obtain ⟨hcfg, hframes, hresp, hdraws, hinput⟩ := heff.extends
  exact ⟨hcfg, hframes, hresp, hdraws, hinput ▸ hrest⟩

end Sys2Proof.Machine
end

section
/-! PROOFS. The envelope's amplitude is in [0.0, 1.0] under legal parameters and registers in their ranges (rules
R141, R142). -/

namespace Sys2Proof.F64

open Sys2Proof.Claims

/-! ### Numbers from zero on, and the unit range -/

theorem unit_iff {x : F64} :
    Within x zero one ↔ isFinite x = true ∧ 0 ≤ units x ∧ units x ≤ 2 ^ 1074 := by
  constructor
  · intro h
    have hfin := isFinite_of_within isFinite_zero isFinite_one h
    obtain ⟨-, -, -, h1, h2⟩ := within_iff.1 h
    rw [units_zero] at h1
    rw [units_one] at h2
    exact ⟨hfin, h1, h2⟩
  · rintro ⟨hfin, h1, h2⟩
    exact within_iff.2 ⟨by decide, isNaN_of_finite hfin, by decide, by rwa [units_zero], by rwa [units_one]⟩

theorem units_negOne : units negOne = -2 ^ 1074 := by decide +kernel

theorem units_of_within_unit {x : F64} (h : Within x negOne one) :
    isFinite x = true ∧ -2 ^ 1074 ≤ units x ∧ units x ≤ 2 ^ 1074 := by
  obtain ⟨-, -, -, h1, h2⟩ := within_iff.1 h
  rw [units_negOne] at h1
  rw [units_one] at h2
  exact ⟨isFinite_of_within (by decide) isFinite_one h, h1, h2⟩

theorem unit_one : Within one zero one := ⟨by decide +kernel, F64.le_refl (by decide)⟩

theorem unit_zero : Within zero zero one := ⟨F64.le_refl (by decide), by decide +kernel⟩

/-- A product of two numbers of the unit range is in it. -/
theorem unit_mul {a b : F64} (ha : Within a zero one) (hb : Within b zero one) :
    Within (mul a b) zero one := by
  obtain ⟨haf, ha0, ha1⟩ := unit_iff.1 ha
  obtain ⟨hbf, hb0, hb1⟩ := unit_iff.1 hb
  refine mul_within haf hbf isFinite_zero isFinite_one ?_ ?_
  · rw [units_zero, Int.zero_mul]
    exact Int.mul_nonneg ha0 hb0
  · rw [units_one]
    exact Int.mul_le_mul ha1 hb1 hb0 (by positivity)

theorem unit_one_sub {a : F64} (ha : Within a zero one) : Within (sub one a) zero one := by
  obtain ⟨haf, ha0, ha1⟩ := unit_iff.1 ha
  refine sub_within isFinite_one haf isFinite_zero isFinite_one ?_ ?_ <;> rw [units_one]
  · rw [units_zero]
    exact Int.sub_nonneg.2 ha1
  · exact Int.sub_le_self _ ha0

/-- A quotient of numbers from zero on is from zero on. -/
theorem div_nonneg_within {a b hi : F64} (ha : isFinite a = true) (hb : isFinite b = true)
    (hhi : isFinite hi = true) (h0 : 0 ≤ units a) (hpos : 0 < units b)
    (h : units a * 2 ^ 1074 ≤ units hi * units b) : Within (div a b) zero hi := by
  refine div_within ha hb isFinite_zero hhi hpos ?_ h
  rw [units_zero, Int.zero_mul]
  exact Int.mul_nonneg h0 (by positivity)

/-- A quotient of a number from zero on by a greater one is in the unit range. -/
theorem unit_div {a b : F64} (ha : isFinite a = true) (hb : isFinite b = true) (h0 : 0 ≤ units a)
    (h : units a < units b) : Within (div a b) zero one := by
  refine div_nonneg_within ha hb isFinite_one h0 (h0.trans_lt h) ?_
  rw [units_one, Int.mul_comm]
  exact Int.mul_le_mul_of_nonneg_left h.le (by positivity)

theorem nonneg_of_within {x hi : F64} (hhi : isFinite hi = true) (h : Within x zero hi) :
    isFinite x = true ∧ 0 ≤ units x := by
  obtain ⟨-, -, -, h0, -⟩ := within_iff.1 h
  rw [units_zero] at h0
  exact ⟨isFinite_of_within isFinite_zero hhi h, h0⟩

theorem units_le_of_not_lt {a b : F64} (ha : isFinite a = true) (hb : isFinite b = true)
    (h : lt a b ≠ true) : units b ≤ units a := by
  rw [ne_eq, lt_iff, not_and, not_and] at h
  exact not_lt.1 (h (isNaN_of_finite ha) (isNaN_of_finite hb))

theorem units_lt_of_not_le {a b : F64} (ha : isFinite a = true) (hb : isFinite b = true)
    (h : le a b ≠ true) : units b < units a := by
  rw [ne_eq, le_iff, not_and, not_and] at h
  exact not_le.1 (h (isNaN_of_finite ha) (isNaN_of_finite hb))

/-- The difference of two numbers from zero on is from zero on, where it is taken from the greater one. -/
theorem sub_nonneg_within {a b : F64} (ha : isFinite a = true) (hb : isFinite b = true)
    (hb0 : 0 ≤ units b) (h : units b ≤ units a) : Within (sub a b) zero a := by
  refine sub_within ha hb isFinite_zero ha ?_ (Int.sub_le_self _ hb0)
  rw [units_zero]
  exact Int.sub_nonneg.2 h

end Sys2Proof.F64

namespace Sys2Proof.Machine

open F64 Sys2Proof.Claims

/-! ### The sample rate (rule R5) -/

theorem one_le_fs {p : Params} (hp : p.Legal) : units one ≤ units p.fs := by
  by_contra hc
  obtain ⟨-, -, hpos⟩ := lt_iff.1 hp.fs_pos
  rw [units_zero] at hpos
  have htwo : units two = 2 ^ 1074 + 2 ^ 1074 := by decide +kernel
  have hle : Within (div p.fs two) zero one := by
    refine div_nonneg_within hp.fs_finite (by decide) isFinite_one hpos.le (by decide +kernel) ?_
    rw [units_one] at *
    rw [htwo, Int.mul_comm]
    refine Int.mul_le_mul_of_nonneg_left ?_ (by positivity)
    omega
  obtain ⟨-, -, -, -, h1⟩ := within_iff.1 hle
  obtain ⟨-, -, h2⟩ := lt_iff.1 hp.fs_nyquist
  have h3 : units one ≤ units Config.fcMax := by decide +kernel
  omega

/-! ### Times of the envelope (rule R141) -/

/-- 2^64, above every frame count. -/
def countBound : F64 := powTwo 64

theorem countBound_finite : isFinite countBound = true := by decide

theorem units_countBound : units countBound = 2 ^ 64 * 2 ^ 1074 := by decide +kernel

theorem ofNat_within {n : Nat} (h : n < 2 ^ 64) : Within (F64.ofNat n) zero countBound := by
  have hunits : 0 ≤ (n : Int) * 2 ^ 1074 := Int.mul_nonneg (Int.natCast_nonneg n) (by positivity)
  have hr : CorrectlyRounded (F64.ofNat n) ((n : Int) * 2 ^ 1074) 1 := by
    have hn : n * oneUnits = ((n : Int) * 2 ^ 1074).natAbs := by rw [natAbs_mul_oneUnits, Int.natAbs_natCast]
    rw [F64.ofNat, hn]
    refine roundRatio_correctlyRounded one_pos (fun hneg => absurd hneg (not_lt.2 hunits)) (fun _ => rfl)
  refine within_of_correctlyRounded hr one_pos isFinite_zero countBound_finite ?_ ?_
  · rw [units_zero, Int.zero_mul]
    exact hunits
  · rw [units_countBound, Nat.cast_one, Int.mul_one]
    refine Int.mul_le_mul_of_nonneg_right ?_ (by positivity)
    omega

theorem elapsed_nonneg {p : Params} (hp : p.Legal) (n n0 : BitVec 64) :
    isFinite (elapsed p.fs n n0) = true ∧ 0 ≤ units (elapsed p.fs n n0) := by
  have hfs := one_le_fs hp
  rw [units_one] at hfs
  have hone : (0 : Int) < 2 ^ 1074 := by positivity
  have hcount := ofNat_within (n - n0).isLt
  obtain ⟨hfin, h0⟩ := nonneg_of_within countBound_finite hcount
  obtain ⟨-, -, -, -, h1⟩ := within_iff.1 hcount
  exact nonneg_of_within countBound_finite (div_nonneg_within hfin hp.fs_finite countBound_finite h0
    (hone.trans_le hfs) (Int.mul_le_mul h1 hfs hone.le (h0.trans h1)))

theorem seconds_nonneg {w : F64} (hfin : isFinite w = true) (h0 : le zero w = true) :
    isFinite (seconds w) = true ∧ 0 ≤ units (seconds w) := by
  obtain ⟨-, -, hu⟩ := le_iff.1 h0
  rw [units_zero] at hu
  have hk : units thousand = 1000 * 2 ^ 1074 := by decide +kernel
  refine nonneg_of_within hfin (div_nonneg_within hfin (by decide) hfin hu (by decide +kernel) ?_)
  rw [hk]
  refine Int.mul_le_mul_of_nonneg_left ?_ hu
  have hP : (0 : Int) < 2 ^ 1074 := by positivity
  omega

/-! ### The amplitude (rule R142) -/

theorem envPhase_attack {fs : F64} {v : Env} {n : BitVec 64} (h : envPhase fs v n = .attack) :
    lt (v.e fs n) (seconds v.attack) = true := by
  unfold envPhase at h
  split_ifs at h
  assumption

theorem envPhase_decay {fs : F64} {v : Env} {n : BitVec 64} (h : envPhase fs v n = .decay) :
    lt (v.e fs n) (seconds v.attack) ≠ true ∧
      lt (sub (v.e fs n) (seconds v.attack)) (seconds v.decay) = true := by
  unfold envPhase at h
  split_ifs at h
  exact ⟨by assumption, by assumption⟩

theorem envPhase_autoRelease {fs : F64} {v : Env} {n : BitVec 64} (h : envPhase fs v n = .autoRelease) :
    lt (v.e fs n) (seconds v.attack) ≠ true := by
  unfold envPhase at h
  split_ifs at h
  assumption

section

variable {p : Params} {v : Env} (hp : p.Legal) (hv : EnvOk v)

include hv in
theorem releaseRamp_unit {level x : F64} (hl : Within level zero one) (hx : isFinite x = true)
    (h0 : 0 ≤ units x) : Within (releaseRamp v level x) zero one := by
  obtain ⟨hrf, -⟩ := seconds_nonneg hv.release_finite hv.release_nonneg
  unfold releaseRamp
  split
  · exact unit_zero
  next h => exact unit_mul hl (unit_one_sub (unit_div hx hrf h0 (units_lt_of_not_le hrf hx h)))

include hp hv

/-- Time since the attack window ended, once it has. -/
theorem sinceAttack_nonneg {n : BitVec 64} (h : lt (v.e p.fs n) (seconds v.attack) ≠ true) :
    isFinite (sub (v.e p.fs n) (seconds v.attack)) = true ∧
      0 ≤ units (sub (v.e p.fs n) (seconds v.attack)) := by
  obtain ⟨hef, -⟩ := elapsed_nonneg hp n v.nOn
  obtain ⟨haf, ha0⟩ := seconds_nonneg hv.attack_finite hv.attack_nonneg
  exact nonneg_of_within hef (sub_nonneg_within hef haf ha0 (units_le_of_not_lt hef haf h))

/-- The amplitude is in [0.0, 1.0] in every envelope state, roundings included. -/
theorem envAmp_unit (n : BitVec 64) : Within (envAmp p.fs v n) zero one := by
  obtain ⟨hef, he0⟩ := elapsed_nonneg hp n v.nOn
  obtain ⟨hrf, hr0⟩ := elapsed_nonneg hp n v.nOff
  obtain ⟨haf, -⟩ := seconds_nonneg hv.attack_finite hv.attack_nonneg
  obtain ⟨hdf, -⟩ := seconds_nonneg hv.decay_finite hv.decay_nonneg
  unfold envAmp
  cases hφ : envPhase p.fs v n with
  | idle => exact unit_zero
  | release => exact releaseRamp_unit hv ⟨hv.aOff_lo, hv.aOff_hi⟩ hrf hr0
  | attack =>
    obtain ⟨-, -, hlt⟩ := lt_iff.1 (envPhase_attack hφ)
    exact unit_div hef haf he0 hlt
  | decay =>
    obtain ⟨hge, hlt⟩ := envPhase_decay hφ
    obtain ⟨-, -, hlt⟩ := lt_iff.1 hlt
    obtain ⟨hsf, hs0⟩ := sinceAttack_nonneg hp hv hge
    exact unit_one_sub (unit_mul (unit_one_sub ⟨hv.sustain_lo, hv.sustain_hi⟩) (unit_div hsf hdf hs0 hlt))
  | sustain => exact ⟨hv.sustain_lo, hv.sustain_hi⟩
  | autoRelease =>
    obtain ⟨hsf, hs0⟩ := sinceAttack_nonneg hp hv (envPhase_autoRelease hφ)
    exact releaseRamp_unit hv unit_one hsf hs0

end

end Sys2Proof.Machine
end

section
/-! PROOFS. The register invariant at reset and under every effect (rules R5, R22 to R40, R142, R300). -/

namespace Sys2Proof.Machine

open F64 Sys2Proof.Claims

/-! ### The PCM range (rules R40, R238) -/

theorem trunc_natAbs (x : F64) : (trunc x).natAbs = mag x / oneUnits := by
  rw [trunc, Int.natAbs_tdiv, units_natAbs, Int.natAbs_natCast]
  rfl

theorem units_pcmScale : units pcmScale = 32767 * 2 ^ 1074 := by decide +kernel

theorem pcmScale_finite : isFinite pcmScale = true := by decide

/-- The clamped value times 32767.0 is in [-32767.0, 32767.0]. -/
theorem pcm_product_within (y : F64) :
    Within (mul (clamp y negOne one) pcmScale) (neg pcmScale) pcmScale := by
  obtain ⟨hfin, h1, h2⟩ := units_of_within_unit (clamp_within (x := y) unit_symmetric)
  have hscale : 0 ≤ units pcmScale := by
    rw [units_pcmScale]
    positivity
  refine mul_within hfin pcmScale_finite ((isFinite_neg _).trans pcmScale_finite) pcmScale_finite ?_ ?_
  · rw [units_neg, Int.neg_mul, Int.mul_comm, ← Int.neg_mul]
    exact Int.mul_le_mul_of_nonneg_right h1 hscale
  · rw [Int.mul_comm (units pcmScale)]
    exact Int.mul_le_mul_of_nonneg_right h2 hscale

theorem pcmInt_natAbs_le (y : F64) : (pcmInt y).natAbs ≤ 32767 := by
  unfold pcmInt
  split
  · decide
  obtain ⟨-, -, -, h1, h2⟩ := within_iff.1 (pcm_product_within y)
  rw [units_neg, units_pcmScale] at h1
  rw [units_pcmScale] at h2
  have hone : (oneUnits : Int) = 2 ^ 1074 := Nat.cast_pow 2 1074
  rw [← hone] at h1 h2
  rw [trunc_natAbs, ← units_natAbs]
  refine Nat.div_le_of_le_mul ?_
  omega

theorem pcm_ok (y : F64) : PcmOk (pcm y) := by
  have h := pcmInt_natAbs_le y
  unfold PcmOk pcm
  rw [BitVec.toInt_ofInt_eq_self (by decide) (by omega) (by omega)]
  omega

/-! ### The invariant at reset (rules R5, R300) -/

theorem chan_reset (p : Params) (c : Fin 4) : (State.resetWith p).chan[c] = Reset.chan := by
  fin_cases c <;> rfl

theorem osc_reset (p : Params) (i : Fin 3) : (State.resetWith p).osc[i] = Reset.osc := by
  fin_cases i <;> rfl

theorem oscOk_reset : OscOk Reset.osc where
  volume := by decide
  freq := by decide
  fine := by decide
  octave_lo := by decide
  octave_hi := by decide
  gain := by decide

theorem envOk_reset : EnvOk Reset.env where
  attack_finite := by decide
  attack_nonneg := by decide
  decay_finite := by decide
  decay_nonneg := by decide
  release_finite := by decide
  release_nonneg := by decide
  sustain_lo := unit_one.1
  sustain_hi := unit_one.2
  aOff_lo := unit_zero.1
  aOff_hi := unit_zero.2

theorem fltOk_reset : FltOk Reset.flt Reset.shp where
  cutoff := by decide
  res_lo := by decide +kernel
  res_hi := by decide +kernel
  clipPos := by decide
  clipNeg := by decide

theorem resetWith_inv {p : Params} (hp : p.Legal) : Inv (State.resetWith p) where
  params := hp
  osc i := by rw [osc_reset]; exact oscOk_reset
  env := envOk_reset
  flt := fltOk_reset
  master := isFinite_one
  held := ⟨List.nodup_nil, Nat.zero_le _⟩
  pcm c := by rw [chan_reset]; exact ⟨by decide, by decide⟩
  absent c _ := chan_reset p c

/-- Clearing the lowest exponent bit of a value that is not finite makes it finite. -/
theorem cutOct_finite : isFinite Config.cutOct = true := by
  unfold Config.cutOct
  split
  next h =>
    rw [isFinite, expo, BitVec.extractLsb'_and, h]
    decide
  next h =>
    rw [isFinite, bne_iff_ne]
    exact fun he => h (BitVec.eq_of_toNat_eq he)

theorem reference_legal : Config.reference.Legal where
  fs_finite := by decide
  fs_pos := by decide +kernel
  fs_nyquist := by decide +kernel
  nch_pos := by decide
  nch_le := by decide
  maxNotes_pos := by decide
  maxNotes_le := by decide
  scale_length := rfl
  cutOct_finite := cutOct_finite

/-- Settles O16: the reset values are in their ranges for any legal parameters, and the reference parameters are
legal. -/
theorem resetMeetsTheInvariant : Obligations.ResetMeetsTheInvariant :=
  resetWith_inv reference_legal

/-! ### The invariant under the effects of a command -/

theorem oscOk_of_same {a b : Osc} (h : a.Same b) (ha : OscOk a) : OscOk b := by
  rw [h]
  exact { ha with }

theorem channelPass_pcm (F : Fns) (e : F64) (s : State) (c d : Fin 4) (h : PcmOk s.chan[d].outPcm) :
    PcmOk (channelPass F e s c).chan[d].outPcm := by
  by_cases hd : d = c
  · subst hd
    rw [channelPass_chan_self]
    exact pcm_ok _
  · rwa [channelPass_chan_other F e s c hd]

/-- The passes of a frame leave the channels that are not in the block. -/
theorem passes_absent (F : Fns) (e : F64) (s : State) {d : Fin 4} (h : s.cfg.nch ≤ d.val) :
    (passes F e s).chan[d] = s.chan[d] := by
  have hd : d ∉ liveChannels s.cfg := by
    rw [liveChannels_mem]
    omega
  unfold passes
  generalize liveChannels s.cfg = cs at hd
  clear h
  induction cs generalizing s with
  | nil => rfl
  | cons c cs ih =>
    obtain ⟨hc, hcs⟩ := not_or.1 (mt List.mem_cons.2 hd)
    rw [List.foldl_cons, ih _ hcs, channelPass_chan_other F e s c hc]

theorem frame_inv (F : Fns) {s : State} (hs : Inv s) : Inv (frame F s) := by
  rw [frame_eq]
  exact
    { params := by simpa using hs.params
      osc := fun i => passes_induction (P := fun t => OscOk t.osc[i]) s (hs.osc i)
        fun t c ht => oscOk_of_same (voices_same F t _ c i) ht
      env := { hs.env with }
      flt := by simpa using hs.flt
      master := by simpa using hs.master
      held := by simpa using hs.held
      pcm := fun c => passes_induction (P := fun t => PcmOk t.chan[c].outPcm) s (hs.pcm c)
        fun t d ht => channelPass_pcm F _ t d c ht
      absent := fun c hc => by
        have hc' : s.cfg.nch ≤ c.val := by simpa using hc
        exact (passes_absent F _ s hc').trans (hs.absent c hc') }

theorem heldOk_append {p : Params} {held : List (BitVec 7)} {n : BitVec 7} (h : HeldOk p held)
    (hn : n ∉ held) (hlen : held.length ≠ p.maxNotes) : HeldOk p (held ++ [n]) where
  distinct := by simpa using h.distinct.concat hn
  capacity := by
    have := h.capacity
    rw [List.length_append, List.length_singleton]
    omega

theorem heldOk_erase {p : Params} {held : List (BitVec 7)} (n : BitVec 7) (h : HeldOk p held) :
    HeldOk p (held.erase n) where
  distinct := h.distinct.erase n
  capacity := List.length_erase_le.trans h.capacity

theorem noteOn_inv (n : BitVec 7) {s : State} (hs : Inv s) : Inv (noteOn n s) := by
  rcases noteOn_cases n s with ⟨-, h⟩ | ⟨-, -, h⟩ | ⟨hn, hlen, h⟩ <;> rw [h]
  · exact hs
  · exact { hs with }
  · have hheld := heldOk_append hs.held hn hlen
    unfold addNote
    split
    · exact { hs with held := hheld, env := { hs.env with } }
    · exact { hs with held := hheld }

/-- The level captured at the last note's end is an amplitude (rule R145). -/
theorem envStop_inv {s : State} (hs : Inv s) : Inv (envStop s) := by
  obtain ⟨hlo, hhi⟩ := envAmp_unit hs.params hs.env s.N
  exact { hs with env := { hs.env with aOff_lo := hlo, aOff_hi := hhi } }

theorem noteOff_inv (n : BitVec 7) {s : State} (hs : Inv s) : Inv (noteOff n s) := by
  have hheld : Inv { s with held := s.held.erase n } := { hs with held := heldOk_erase n hs.held }
  rcases noteOff_cases n s with ⟨-, h⟩ | ⟨-, -, h⟩ | ⟨-, -, h⟩ <;> rw [h]
  · exact hs
  · exact envStop_inv hheld
  · exact hheld

theorem updOsc_inv {s : State} {j : Fin 3} {upd : Osc → Osc} (hs : Inv s)
    (h : OscOk s.osc[j] → OscOk (upd s.osc[j])) : Inv (s.updOsc j upd) := by
  refine { hs with osc := fun i => ?_ }
  by_cases hi : i = j
  · subst hi
    rw [State.updOsc_self]
    exact h (hs.osc i)
  · rw [State.updOsc_other s upd hi]
    exact hs.osc i

theorem Effect.inv {i : Instr} {s t : State} (h : Effect i s t) (hs : Inv s) : Inv t := by
  cases h with
  | status | time | route => exact { hs with }
  | osc j upd h => exact updOsc_inv hs (h _)
  | env upd h => exact { hs with env := h _ hs.env }
  | flt upd h => exact { hs with flt := h _ hs.flt }
  | shp upd h => exact { hs with flt := h _ hs.flt }
  | master d h => exact { hs with master := h }
  | noteOn n => exact noteOn_inv n hs
  | noteOff n => exact noteOff_inv n hs
  | frame => exact frame_inv openFns hs
  | read a =>
    obtain ⟨v, st, h⟩ := readRegister_writes a s
    rw [h]
    exact { hs with }
  | reset => exact { resetWith_inv hs.params with }

/-- Settles O17: every effect keeps the invariant; the level ENV.A_OFF captures is an amplitude, and an amplitude
is in [0.0, 1.0]. -/
theorem everyStepKeepsTheInvariant : Obligations.EveryStepKeepsTheInvariant := by
  intro s t hs h
  obtain ⟨i, rest, -, -, heff⟩ := step_effect h
  exact heff.inv { hs with }

end Sys2Proof.Machine
end

section
/-! PROOFS. Silence until a mixer cell is set: the output high-pass's coefficients are finite, so it gives zeros
from zeros (rules R181, R183, R236 to R238, R300). -/

namespace Sys2Proof.F64

open Sys2Proof.Claims

/-! ### Arithmetic at zero -/

theorem isZero_of_within_zero {x : F64} (h : Within x zero zero) : isZero x = true := by
  obtain ⟨-, -, -, h1, h2⟩ := within_iff.1 h
  rw [isZero_iff]
  rw [units_zero] at h1 h2
  omega

section

variable {a b : F64}

theorem mul_isZero (ha : isFinite a = true) (hb : isFinite b = true)
    (h : isZero a = true ∨ isZero b = true) : isZero (mul a b) = true := by
  have h0 : units a * units b = 0 := by simpa [isZero_iff] using h
  refine isZero_of_within_zero (mul_within ha hb isFinite_zero isFinite_zero ?_ ?_)
  · rw [h0, units_zero, Int.zero_mul]
  · rw [h0, units_zero, Int.zero_mul]

theorem add_isZero (ha : isZero a = true) (hb : isZero b = true) : isZero (add a b) = true := by
  have h0 : units a + units b = 0 := by rw [isZero_iff.1 ha, isZero_iff.1 hb, Int.add_zero]
  exact isZero_of_within_zero (add_within (isFinite_of_isZero ha) (isFinite_of_isZero hb) isFinite_zero
    isFinite_zero (by simp [h0]) (by simp [h0]))

theorem sub_isZero (ha : isZero a = true) (hb : isZero b = true) : isZero (sub a b) = true := by
  have h0 : units a - units b = 0 := by rw [isZero_iff.1 ha, isZero_iff.1 hb, Int.sub_zero]
  exact isZero_of_within_zero (sub_within (isFinite_of_isZero ha) (isFinite_of_isZero hb) isFinite_zero
    isFinite_zero (by simp [h0]) (by simp [h0]))

end

end Sys2Proof.F64

namespace Sys2Proof.Machine

open F64 Sys2Proof.Claims

/-! ### The coefficients of the output high-pass (rules R181, R237) -/

/-- 1/4, 3/4 and 8, the bounds of the coefficients' parts. -/
def quarter : F64 := powTwo (-2)
def threeQuarters : F64 := ofBits 0x3FE8000000000000
def eight : F64 := powTwo 3

theorem units_two : units two = 2 * 2 ^ 1074 := by decide +kernel
theorem units_quarter : 4 * units quarter = 2 ^ 1074 := by decide +kernel
theorem units_threeQuarters : 4 * units threeQuarters = 3 * 2 ^ 1074 := by decide +kernel
theorem units_eight : units eight = 8 * 2 ^ 1074 := by decide +kernel

theorem isFinite_two : isFinite two = true := by decide

theorem within_two_iff {x : F64} :
    Within x (neg two) two ↔ isFinite x = true ∧ -(2 * 2 ^ 1074) ≤ units x ∧ units x ≤ 2 * 2 ^ 1074 := by
  constructor
  · intro h
    have hfin := isFinite_of_within (by decide) isFinite_two h
    obtain ⟨-, -, -, h1, h2⟩ := within_iff.1 h
    rw [units_neg, units_two] at h1
    rw [units_two] at h2
    exact ⟨hfin, h1, h2⟩
  · rintro ⟨hfin, h1, h2⟩
    exact within_iff.2 ⟨by decide, isNaN_of_finite hfin, by decide,
      by simpa only [units_neg, units_two] using h1, by simpa only [units_two] using h2⟩

theorem half_within_two {x : F64} (hx : Within x (neg two) two) : Within (div x two) (neg two) two := by
  obtain ⟨hfin, h1, h2⟩ := within_two_iff.1 hx
  have hP : (0 : Int) < 2 ^ 1074 := by positivity
  refine div_within hfin isFinite_two (by decide) isFinite_two (by decide +kernel) ?_ ?_
  all_goals
    simp only [units_neg, units_two]
    generalize (2 : Int) ^ 1074 = P at *
    nlinarith

theorem neg_two_mul_within_two {x : F64} (hx : Within x negOne one) :
    Within (mul (neg two) x) (neg two) two := by
  obtain ⟨hfin, h1, h2⟩ := units_of_within_unit hx
  have hP : (0 : Int) < 2 ^ 1074 := by positivity
  refine mul_within (by decide) hfin (by decide) isFinite_two ?_ ?_
  all_goals
    simp only [units_neg, units_two]
    generalize (2 : Int) ^ 1074 = P at *
    nlinarith

/-- A number in [-2.0, 2.0] over one from 1/4 on is finite. -/
theorem div_finite {x y : F64} (hx : Within x (neg two) two) (hy : isFinite y = true)
    (hy1 : units quarter ≤ units y) : isFinite (div x y) = true := by
  obtain ⟨hxf, h1, h2⟩ := within_two_iff.1 hx
  have hq := units_quarter
  have hP : (0 : Int) < 2 ^ 1074 := by positivity
  have height : 2 * 2 ^ 1074 * 2 ^ 1074 ≤ units eight * units y := by
    rw [units_eight]
    calc (2 : Int) * 2 ^ 1074 * 2 ^ 1074 = 8 * 2 ^ 1074 * units quarter := by rw [← hq]; ring
      _ ≤ 8 * 2 ^ 1074 * units y := Int.mul_le_mul_of_nonneg_left hy1 (by positivity)
  refine isFinite_of_within (lo := neg eight) (hi := eight) (by decide) (by decide)
    (div_within hxf hy (by decide) (by decide) (by omega) ?_ ?_)
  · have := Int.mul_le_mul_of_nonneg_right h1 hP.le
    rw [Int.neg_mul] at this
    rw [units_neg, Int.neg_mul]
    omega
  · exact (Int.mul_le_mul_of_nonneg_right h2 hP.le).trans height

/-- Every coefficient is finite. -/
structure Coef.Finite (k : Coef) : Prop where
  b0 : isFinite k.b0 = true
  b1 : isFinite k.b1 = true
  b2 : isFinite k.b2 = true
  a1 : isFinite k.a1 = true
  a2 : isFinite k.a2 = true

/-- The angle of the output high-pass is finite: the sample rate is 1.0 at least. -/
theorem hpAngle_finite {p : Params} (hp : p.Legal) : isFinite (div (mul twoPi hpfFc) p.fs) = true := by
  have hc : isFinite (mul twoPi hpfFc) = true := by decide +kernel
  have h0 : 0 ≤ units (mul twoPi hpfFc) := by decide +kernel
  have hfs := one_le_fs hp
  rw [units_one] at hfs
  have hP : (0 : Int) < 2 ^ 1074 := by positivity
  exact isFinite_of_within isFinite_zero hc (div_nonneg_within hc hp.fs_finite hc h0 (hP.trans_le hfs)
    (Int.mul_le_mul_of_nonneg_left hfs h0))

/-- `alpha` of the output high-pass is in [-3/4, 3/4], for any sine value. -/
theorem hpAlpha_within {sw : F64} (h : Within sw negOne one) :
    Within (div sw (mul two hpfQ)) (neg threeQuarters) threeQuarters := by
  obtain ⟨hf, h1, h2⟩ := units_of_within_unit h
  have hpos : 0 < units (mul two hpfQ) := by decide +kernel
  have hbound : (2 : Int) ^ 1074 * 2 ^ 1074 ≤ units threeQuarters * units (mul two hpfQ) := by decide +kernel
  have hP : (0 : Int) ≤ 2 ^ 1074 := by positivity
  refine div_within hf (by decide +kernel) (by decide) (by decide) hpos ?_ ?_
  · have := Int.mul_le_mul_of_nonneg_right h1 hP
    rw [Int.neg_mul] at this
    rw [units_neg, Int.neg_mul]
    omega
  · exact (Int.mul_le_mul_of_nonneg_right h2 hP).trans hbound

theorem hpCoef_finite {p : Params} (hp : p.Legal) :
    (bqCoef openFns p.fs .hp hpfFc hpfQ).Finite := by
  have hw := hpAngle_finite hp
  have hcw : Within (openFns.fcos (div (mul twoPi hpfFc) p.fs)) negOne one := fcos_within hw
  have hsw : Within (openFns.fsin (div (mul twoPi hpfFc) p.fs)) negOne one := fsin_within hw
  have halpha := hpAlpha_within hsw
  unfold bqCoef
  dsimp only
  generalize openFns.fcos (div (mul twoPi hpfFc) p.fs) = cw at *
  generalize div (openFns.fsin (div (mul twoPi hpfFc) p.fs)) (mul two hpfQ) = alpha at *
  obtain ⟨hcf, hc1, hc2⟩ := units_of_within_unit hcw
  have haf := isFinite_of_within (by decide) (by decide) halpha
  obtain ⟨-, -, -, ha1, ha2⟩ := within_iff.1 halpha
  have htq := units_threeQuarters
  have hq := units_quarter
  have h2 := units_two
  rw [units_neg] at ha1
  have ha0 : Within (add one alpha) quarter two :=
    add_within isFinite_one haf (by decide) isFinite_two (by rw [units_one]; omega) (by rw [units_one]; omega)
  have ha0f := isFinite_of_within (by decide) isFinite_two ha0
  obtain ⟨-, -, -, ha01, -⟩ := within_iff.1 ha0
  have hsum : Within (add one cw) (neg two) two :=
    add_within isFinite_one hcf (by decide) isFinite_two (by rw [units_one, units_neg]; omega)
      (by rw [units_one]; omega)
  have ha2num : Within (sub one alpha) (neg two) two :=
    sub_within isFinite_one haf (by decide) isFinite_two (by rw [units_one, units_neg]; omega)
      (by rw [units_one]; omega)
  exact ⟨div_finite (half_within_two hsum) ha0f ha01, div_finite (neg_within hsum) ha0f ha01,
    div_finite (half_within_two hsum) ha0f ha01, div_finite (neg_two_mul_within_two hcw) ha0f ha01,
    div_finite ha2num ha0f ha01⟩

/-! ### A silent block stays silent (rules R236 to R238, R300) -/

/-- A biquad with finite coefficients gives zeros from zeros (rule R183). -/
theorem bqStep_zero {k : Coef} {z : Cells} {x : F64} (hk : k.Finite) (h1 : isZero z.s1 = true)
    (h2 : isZero z.s2 = true) (hx : isZero x = true) :
    isZero (bqStep k z x).1 = true ∧ isZero (bqStep k z x).2.s1 = true ∧ isZero (bqStep k z x).2.s2 = true := by
  have hmul {c v : F64} (hc : isFinite c = true) (hv : isZero v = true) : isZero (mul c v) = true :=
    mul_isZero hc (isFinite_of_isZero hv) (.inr hv)
  have hy : isZero (add (mul k.b0 x) z.s1) = true := add_isZero (hmul hk.b0 hx) h1
  exact ⟨hy, add_isZero (sub_isZero (hmul hk.b1 hx) (hmul hk.a1 hy)) h2,
    sub_isZero (hmul hk.b2 hx) (hmul hk.a2 hy)⟩

/-- A sum over a column without a cell is the 0.0 it starts from. -/
theorem routedSum_no_cell (x : Ctx) (out : Vector F64 3) (fprev : F64) (rows : List (Fin 5)) (r : Nat)
    (h : ∀ src, cell x.route src r = false) : routedSum x out fprev rows r = zero := by
  unfold routedSum
  induction rows with
  | nil => rfl
  | cons src rows ih => rw [List.foldl_cons, h src, if_neg Bool.false_ne_true, ih]

/-- The main filter does not write the output high-pass cells. -/
theorem filterStage_hp (F : Fns) (s : State) (e : F64) (c : Fin 4) (out : Vector F64 3) :
    (filterStage F s e c out).hp = s.chan[c].hp := by
  simp only [filterStage, mainFilter, filterCore, svfCascade]
  split
  · split <;> rfl
  · rfl
  · rfl

/-- A sample of a silent channel. -/
def Silent (z : Chan) : Prop := z.outPcm = 0#16 ∧ isZero z.outNum = true

theorem pcm_zero {y : F64} (h : isZero y = true) : pcm y = 0#16 := by
  have hfin := isFinite_of_isZero h
  have hy := isZero_iff.1 h
  have hclamp : clamp y negOne one = y := by
    refine clamp_inside (le_iff.2 ⟨by decide, isNaN_of_finite hfin, ?_⟩)
      (le_iff.2 ⟨isNaN_of_finite hfin, by decide, ?_⟩) <;> rw [hy]
    · decide +kernel
    · decide +kernel
  have hmul := isZero_iff.1 (mul_isZero hfin pcmScale_finite (.inl h))
  rw [pcm, pcmInt, isNaN_of_finite hfin, if_neg Bool.false_ne_true, hclamp, trunc, hmul, Int.zero_tdiv]
  rfl

section

variable {s : State} (hs : Quiet s) (e : F64) (c : Fin 4)

include hs

/-- The mixer and the output high-pass of a quiet block give a zero and keep zeros. -/
theorem outputStage_zero {out : Vector F64 3} {z : Chan} (hz : z.hp = s.chan[c].hp) :
    isZero (outputStage openFns s e c out z).1 = true ∧
      isZero (outputStage openFns s e c out z).2.hp.s1 = true ∧
      isZero (outputStage openFns s e c out z).2.hp.s2 = true := by
  obtain ⟨h1, h2⟩ := hs.cells c
  have hmix : isZero (step6 (ctxOf s e c) out z.fprev s.master) = true := by
    rw [step6, routedSum_no_cell (ctxOf s e c) _ _ _ mixerCol hs.column]
    exact mul_isZero isFinite_zero hs.master (.inl (by decide))
  exact bqStep_zero (hpCoef_finite hs.params) (hz ▸ h1) (hz ▸ h2) hmix

theorem channelPass_silent :
    Silent (channelPass openFns e s c).chan[c] ∧
      isZero (channelPass openFns e s c).chan[c].hp.s1 = true ∧
      isZero (channelPass openFns e s c).chan[c].hp.s2 = true := by
  have hout := outputStage_zero hs e c (out := (voices openFns s e c).out)
    (filterStage_hp openFns s e c (voices openFns s e c).out)
  obtain ⟨hy, h1, h2⟩ := hout
  rw [channelPass_chan_self]
  refine ⟨⟨pcm_zero hy, hy⟩, ?_, ?_⟩
  · simpa [compose] using h1
  · simpa [compose] using h2

theorem channelPass_quiet : Quiet (channelPass openFns e s c) where
  params := hs.params
  master := hs.master
  column := hs.column
  cells d := by
    by_cases hd : d = c
    · subst hd
      exact (channelPass_silent hs e d).2
    · rw [channelPass_chan_other openFns e s c hd]
      exact hs.cells d

end

/-- What a pass makes true of its channel, where the passes keep what it needs, is true of every channel of the
block after a frame's passes. -/
theorem passes_live {F : Fns} {e : F64} {P : State → Prop} {R : Chan → Prop}
    (hP : ∀ t c, P t → P (channelPass F e t c)) (hR : ∀ t c, P t → R (channelPass F e t c).chan[c])
    (s : State) (hs : P s) {d : Fin 4} (hd : d.val < s.cfg.nch) : R (passes F e s).chan[d] := by
  have hmem : R s.chan[d] ∨ d ∈ liveChannels s.cfg := .inr ((liveChannels_mem s.cfg d).2 hd)
  unfold passes
  generalize liveChannels s.cfg = cs at hmem
  clear hd
  induction cs generalizing s with
  | nil => simpa using hmem
  | cons c cs ih =>
    refine ih _ (hP s c hs) ?_
    by_cases hdc : d = c
    · subst hdc
      exact .inl (hR s d hs)
    · rw [channelPass_chan_other F e s c hdc]
      exact hmem.imp_right fun h => (List.mem_cons.1 h).resolve_left hdc

section

variable {s : State} (hs : Quiet s)

include hs

theorem passes_silent (e : F64) {c : Fin 4} (hc : c.val < s.cfg.nch) :
    Silent (passes openFns e s).chan[c] :=
  passes_live (P := Quiet) (fun _ c ht => channelPass_quiet ht e c)
    (fun _ c ht => (channelPass_silent ht e c).1) s hs hc

theorem frame_quiet : Quiet (frame openFns s) := by
  have hq := passes_induction (P := Quiet) (F := openFns) (e := envAmp s.cfg.fs s.env s.N) s hs
    fun _ c ht => channelPass_quiet ht _ c
  rw [frame_eq]
  exact { hq with }

theorem frame_frames_silent :
    ∃ v, (frame openFns s).frames = s.frames ++ [v] ∧ ∀ x ∈ v, x.pcm = 0#16 ∧ isZero x.num = true := by
  refine ⟨outputFrame (passes openFns (envAmp s.cfg.fs s.env s.N) s), by rw [frame_eq], fun x hx => ?_⟩
  obtain ⟨c, hc, rfl⟩ := List.mem_map.1 hx
  exact passes_silent hs _ (by simpa [liveChannels_mem] using hc)

end

/-- ROUTE_SET sets the mixer cell of a row in its one case alone (rule R222). -/
theorem routeRow_mixer {r : Fin 9} {v : Bool} {row : BitVec 9} (h : ¬(r = 8 ∧ v = true))
    (hrow : row.getLsbD 8 = false) : (routeRow r v row).getLsbD 8 = false := by
  rw [routeRow, if_neg h]
  cases v with
  | false => rw [if_neg Bool.false_ne_true, BitVec.getLsbD_and, hrow, Bool.false_and]
  | true =>
    have hbit : ∀ k : Fin 9, k ≠ 8 → (1#9 <<< k.val).getLsbD 8 = false := by decide
    rw [if_pos rfl, BitVec.getLsbD_or, hrow, hbit r fun hr => h ⟨hr, rfl⟩, Bool.false_or]

theorem route_reset (p : Params) (src : Fin 5) : (State.resetWith p).route[src] = 0#9 := by
  fin_cases src <;> rfl

theorem resetWith_quiet {p : Params} (hp : p.Legal) : Quiet (State.resetWith p) where
  params := hp
  master := isFinite_one
  column src := by rw [route_reset]; rfl
  cells c := by rw [chan_reset]; decide

theorem Effect.quiet {i : Instr} {s t : State} (h : Effect i s t) (hi : ¬setsMixer i) (hs : Quiet s) :
    Quiet t := by
  cases h with
  | status | osc | env | flt | shp | time => exact { hs with }
  | master d h => exact { hs with master := h }
  | route src r v h =>
    refine { hs with column := fun src' => ?_ }
    by_cases hsrc : src' = src
    · subst hsrc
      rw [State.updRoute_self]
      exact routeRow_mixer (mt h hi) (hs.column src')
    · rw [State.updRoute_other s _ hsrc]
      exact hs.column src'
  | noteOn n =>
    obtain ⟨held, env, st, h⟩ := noteOn_writes n s
    rw [h]
    exact { hs with }
  | noteOff n =>
    obtain ⟨held, env, h⟩ := noteOff_writes n s
    rw [h]
    exact { hs with }
  | frame => exact frame_quiet hs
  | read a =>
    obtain ⟨v, st, h⟩ := readRegister_writes a s
    rw [h]
    exact { hs with }
  | reset => exact { resetWith_quiet hs.params with }

/-- Only FRAME emits frames (rule R262). -/
theorem Effect.frames {i : Instr} {s t : State} (h : Effect i s t) :
    t.frames = s.frames ∨ t = Machine.frame openFns s := by
  cases h with
  | frame => exact .inr rfl
  | noteOn n =>
    obtain ⟨held, env, st, h⟩ := noteOn_writes n s
    exact .inl (by rw [h])
  | noteOff n =>
    obtain ⟨held, env, h⟩ := noteOff_writes n s
    exact .inl (by rw [h])
  | read a =>
    obtain ⟨v, st, h⟩ := readRegister_writes a s
    exact .inl (by rw [h])
  | status | osc | env | flt | shp | master | time | route | reset => exact .inl rfl

/-- Settles O44: with no mixer cell set the mixer gives a zero, the output high-pass has finite coefficients and
so gives zeros from zeros, and every effect but the one excluded keeps the column and the cells. -/
theorem silenceUntilAMixerRouteIsSet : Obligations.SilenceUntilAMixerRouteIsSet := by
  refine ⟨fun s hs => ⟨_, rfl, fun c hc => ?_⟩, fun s t hs h hi => ?_, fun p hp => resetWith_quiet hp⟩
  · rw [frame_eq]
    exact passes_silent hs _ hc
  · obtain ⟨i, rest, -, hdec, heff⟩ := step_effect h
    have hs' : Quiet { s with input := rest } := { hs with }
    have hm : ¬setsMixer i := fun hm => hi i (hdec hm) hm
    refine ⟨heff.quiet hm hs', ?_⟩
    rcases heff.frames with hf | rfl
    · exact ⟨[], by simpa using hf, by simp⟩
    · obtain ⟨v, hv, hsilent⟩ := frame_frames_silent hs'
      exact ⟨[v], hv, by simpa using hsilent⟩

end Sys2Proof.Machine
end

section
/-! PROOFS. The envelope's range and the PCM conversion (rules R40, R142, R238). -/

namespace Sys2Proof.F64

open Sys2Proof.Claims

/-! ### The clamp at the ends of its range (rule R11) -/

section

variable {x lo hi : F64} (hr : le lo hi = true)

include hr

theorem units_clamp_of_ge (h : le hi x = true) : units (clamp x lo hi) = units hi := by
  unfold clamp
  rw [le_trans hr h, if_neg (by decide)]
  split
  · rfl
  next hlt =>
    obtain ⟨hn, hx, hle⟩ := le_iff.1 h
    rw [lt_iff, not_and, not_and] at hlt
    exact le_antisymm (not_lt.1 (hlt hn hx)) hle

theorem units_clamp_of_le (h : le x lo = true) : units (clamp x lo hi) = units lo := by
  obtain ⟨hlo, hhi⟩ := clamp_range (x := x) hr
  obtain ⟨hx, hn, hle⟩ := le_iff.1 h
  by_cases hlx : le lo x = true
  · rw [clamp_inside hlx (le_trans h hr)]
    exact le_antisymm hle (le_iff.1 hlx).2.2
  · rw [clamp, if_pos (by simpa using hlx)]

end

end Sys2Proof.F64

namespace Sys2Proof.Machine

open F64 Sys2Proof.Claims

/-- Settles O28: each branch of the amplitude is built from operations that keep the unit range. -/
theorem envelopeAmplitudeStaysInUnitRange : Obligations.EnvelopeAmplitudeStaysInUnitRange :=
  fun _ _ n hp hv => envAmp_unit hp hv n

/-! ### The PCM conversion (rule R238) -/

/-- The 16-bit sample holds the converted integer: it is in the range of 16 bits. -/
theorem pcm_toInt (y : F64) : (pcm y).toInt = pcmInt y := by
  have h := pcmInt_natAbs_le y
  exact BitVec.toInt_ofInt_eq_self (by decide) (by omega) (by omega)

/-- An exact product of the scaling is not rounded: a whole number of 1.0 comes out as that number. -/
theorem trunc_mul_pcmScale {x r : F64} (hx : isFinite x = true) (hr : isFinite r = true) {k : Int}
    (hu : units r = k * 2 ^ 1074) (h : units x * units pcmScale = units r * 2 ^ 1074) :
    trunc (mul x pcmScale) = k := by
  obtain ⟨-, -, -, h1, h2⟩ := within_iff.1 (mul_within hx pcmScale_finite hr hr h.ge h.le)
  exact (trunc_of_whole ((le_antisymm h2 h1).trans hu)).2

theorem clamp_unit_finite (y : F64) : isFinite (clamp y negOne one) = true :=
  (units_of_within_unit (clamp_within unit_symmetric)).1

theorem pcmInt_of_one_le {y : F64} (h : le one y = true) : pcmInt y = 32767 := by
  rw [pcmInt, (le_iff.1 h).2.1, if_neg (by decide)]
  refine trunc_mul_pcmScale (clamp_unit_finite y) pcmScale_finite units_pcmScale ?_
  rw [units_clamp_of_ge unit_symmetric h, units_one, Int.mul_comm]

theorem pcmInt_of_le_negOne {y : F64} (h : le y negOne = true) : pcmInt y = -32767 := by
  rw [pcmInt, (le_iff.1 h).1, if_neg (by decide)]
  have hneg : units (neg pcmScale) = -32767 * 2 ^ 1074 := by rw [units_neg, units_pcmScale, Int.neg_mul]
  refine trunc_mul_pcmScale (clamp_unit_finite y) ((isFinite_neg _).trans pcmScale_finite) hneg ?_
  rw [units_clamp_of_le unit_symmetric h, units_negOne, units_neg, Int.neg_mul, Int.neg_mul, Int.mul_comm]

theorem pcmInt_of_within {y : F64} (h : Within y negOne one) : pcmInt y = trunc (mul y pcmScale) := by
  obtain ⟨hlo, hhi⟩ := h
  rw [pcmInt, (le_iff.1 hhi).1, if_neg (by decide), clamp_inside hlo hhi]

/-- Settles O56: the clamp comes before the scaling, so no product is beyond 32767.0 and its two ends are
exact products. -/
theorem pcmIsClampedNeverWrapped : Obligations.PcmIsClampedNeverWrapped := by
  intro y
  obtain ⟨hlo, hhi⟩ := pcm_ok y
  refine ⟨hlo, hhi, fun hn => ?_, fun h => ?_, fun h => ?_, fun h => ?_⟩
  · rw [pcm, pcmInt, if_pos hn]
    rfl
  · rw [pcm_toInt]
    exact pcmInt_of_one_le h
  · rw [pcm_toInt]
    exact pcmInt_of_le_negOne h
  · rw [pcm_toInt, pcmInt_of_within h, trunc, oneUnits, Nat.cast_pow]
    rfl

end Sys2Proof.Machine
end

section
/-! PROOFS. What FRAME leaves unchanged: the registers no target and no running filter writes (rules R38, R146,
R230, R232, R233). -/

namespace Sys2Proof.Machine

open F64 Sys2Proof.Claims

/-- What every pass keeps of a state whose fields `get` are as in `s`, the passes of a frame keep. -/
theorem passes_induction_of {α : Type} {F : Fns} {e : F64} (get : State → α) {P : State → Prop} (s : State)
    (hget : ∀ t c, get (channelPass F e t c) = get t) (hs : P s)
    (hp : ∀ t c, get t = get s → P t → P (channelPass F e t c)) : P (passes F e s) :=
  (passes_induction (P := fun t => get t = get s ∧ P t) s ⟨rfl, hs⟩
    fun t c ht => ⟨(hget t c).trans ht.1, hp t c ht.1 ht.2⟩).2

/-! ### FM and AMP without a cell of their column (rules R232, R233) -/

theorem columnActive_eq_false {route : Vector (BitVec 9) 5} {r : Nat}
    (h : ∀ src : Fin 5, (route[src]).getLsbD r = false) : columnActive route r = false := by
  simpa [columnActive, cell] using fun src _ => h src

section

variable (F : Fns) (x : Ctx) (p : Pass) (i j : Fin 3)

/-- A target other than `j`, or a target whose register is not read here, leaves what is read of `j`. -/
theorem get_set_osc {α : Type} (get : Osc → α) {o : Osc} (h : i = j → get o = get p.osc[j]) :
    get (p.osc.set i o)[j] = get p.osc[j] := by
  by_cases hij : i = j
  · subst hij
    simpa using h rfl
  · have : i.val ≠ j.val := fun e => hij (Fin.ext e)
    simp [Vector.getElem_set_ne, this]

theorem pitchTarget_amp : (pitchTarget F x p i).osc[j].amp = p.osc[j].amp := by
  rw [pitchTarget_osc]
  split
  · exact get_set_osc p i j Osc.amp fun h => by subst h; rfl
  · rfl

theorem ampTarget_fm : (ampTarget F x p i).osc[j].fm = p.osc[j].fm := by
  rw [ampTarget_osc]
  split
  · exact get_set_osc p i j Osc.fm fun h => by subst h; rfl
  · rfl

theorem pitchTarget_fm_inactive (h : columnActive x.route (pitchCol j) = false) :
    (pitchTarget F x p i).osc[j].fm = p.osc[j].fm := by
  rw [pitchTarget_osc]
  split
  next hi => exact get_set_osc p i j Osc.fm fun hij => by simp [← hij, hi] at h
  next => rfl

theorem ampTarget_amp_inactive (h : columnActive x.route (ampCol j) = false) :
    (ampTarget F x p i).osc[j].amp = p.osc[j].amp := by
  rw [ampTarget_osc]
  split
  next hi => exact get_set_osc p i j Osc.amp fun hij => by simp [← hij, hi] at h
  next => rfl

end

section

variable (F : Fns) (s : State) (e : F64) (c : Fin 4) (j : Fin 3)

theorem voices_fm_inactive (h : columnActive s.route (pitchCol j) = false) :
    (voices F s e c).osc[j].fm = s.osc[j].fm := by
  unfold voices step3 step2
  refine foldl_oscillators (P := fun p => p.osc[j].fm = s.osc[j].fm) _ ?_
    fun q i hq => (ampTarget_fm F _ q i j).trans hq
  refine foldl_oscillators (P := fun p => p.osc[j].fm = s.osc[j].fm) _ ?_
    fun q i hq => (pitchTarget_fm_inactive F (ctxOf s e c) q i j h).trans hq
  rw [step1_osc]

theorem voices_amp_inactive (h : columnActive s.route (ampCol j) = false) :
    (voices F s e c).osc[j].amp = s.osc[j].amp := by
  unfold voices step3 step2
  refine foldl_oscillators (P := fun p => p.osc[j].amp = s.osc[j].amp) _ ?_
    fun q i hq => (ampTarget_amp_inactive F (ctxOf s e c) q i j h).trans hq
  refine foldl_oscillators (P := fun p => p.osc[j].amp = s.osc[j].amp) _ ?_
    fun q i hq => (pitchTarget_amp F _ q i j).trans hq
  rw [step1_osc]

theorem passes_same : s.osc[j].Same (passes F e s).osc[j] :=
  passes_induction (P := fun t => s.osc[j].Same t.osc[j]) s .rfl
    fun t c ht => ht.trans (voices_same F t e c j)

theorem passes_fm_inactive (h : columnActive s.route (pitchCol j) = false) :
    (passes F e s).osc[j].fm = s.osc[j].fm :=
  passes_induction_of State.route (P := fun t => t.osc[j].fm = s.osc[j].fm) s (fun _ _ => rfl) rfl
    fun t c hr ht => (voices_fm_inactive F t e c j (hr ▸ h)).trans ht

theorem passes_amp_inactive (h : columnActive s.route (ampCol j) = false) :
    (passes F e s).osc[j].amp = s.osc[j].amp :=
  passes_induction_of State.route (P := fun t => t.osc[j].amp = s.osc[j].amp) s (fun _ _ => rfl) rfl
    fun t c hr ht => (voices_amp_inactive F t e c j (hr ▸ h)).trans ht

/-! ### The cells of the filters that do not run (rules R38, R186) -/

/-- What the main filter leaves of a channel, a pass leaves: the output stage writes the high-pass cells and the
sample alone. -/
theorem channelPass_cells {α : Type} (get : Chan → α) (d : Fin 4)
    (hfilter : ∀ fc y, get (filterCore F s.cfg.fs s.flt fc y s.chan[c]).2 = get s.chan[c])
    (hget : ∀ z fprev hp num v, get { z with fprev := fprev, hp := hp, outNum := num, outPcm := v } = get z) :
    get (channelPass F e s c).chan[d] = get s.chan[d] := by
  by_cases hd : d = c
  · subst hd
    rw [channelPass_chan_self]
    simp only [compose, outputStage, filterStage, mainFilter, Fin.getElem_fin, Vector.getElem_set_self]
    exact (hget _ _ _ _ _).trans (hfilter _ _)
  · rw [channelPass_chan_other F e s c hd]

end

theorem filterCore_bq {F : Fns} {fs : F64} {flt : Flt} (hm : flt.mode = .svfLp) (fc y : F64) (z : Chan) :
    (filterCore F fs flt fc y z).2.bq = z.bq := by
  rw [filterCore, hm]
  unfold svfCascade
  cases flt.poles <;> rfl

theorem filterCore_svf {F : Fns} {fs : F64} {flt : Flt} (hm : flt.mode ≠ .svfLp) (fc y : F64) (z : Chan) :
    ((filterCore F fs flt fc y z).2.svf0, (filterCore F fs flt fc y z).2.svf1) = (z.svf0, z.svf1) := by
  unfold filterCore
  cases h : flt.mode with
  | svfLp => exact absurd h hm
  | bqLp | bqHp => rfl

theorem filterCore_svf1 {F : Fns} {fs : F64} {flt : Flt} (hp : flt.poles = .two) (fc y : F64) (z : Chan) :
    (filterCore F fs flt fc y z).2.svf1 = z.svf1 := by
  unfold filterCore svfCascade
  cases flt.mode with
  | svfLp => rw [hp]
  | bqLp | bqHp => rfl

/-- What the main filter, as it is configured, leaves of any channel, a frame's passes leave. -/
theorem passes_cells {α : Type} (get : Chan → α) {F : Fns} {s : State}
    (hfilter : ∀ fc y z, get (filterCore F s.cfg.fs s.flt fc y z).2 = get z)
    (hget : ∀ z fprev hp num v, get { z with fprev := fprev, hp := hp, outNum := num, outPcm := v } = get z)
    (e : F64) (d : Fin 4) : get (passes F e s).chan[d] = get s.chan[d] := by
  refine passes_induction_of (fun t => (t.cfg.fs, t.flt)) (P := fun t => get t.chan[d] = get s.chan[d]) s
    (fun _ _ => rfl) rfl fun t c hflt ht => (channelPass_cells F t e c get d (fun fc y => ?_) hget).trans ht
  obtain ⟨hfs, hflt⟩ := Prod.mk.inj hflt
  rw [hfs, hflt]
  exact hfilter fc y _

/-- Settles O42: field by field through the passes of a frame; FM and AMP are written by a target of an active
column alone, and a filter cell by the filter that runs. -/
theorem frameLeavesTheRestUnchanged : Obligations.FrameLeavesTheRestUnchanged := by
  intro s
  refine ⟨frame openFns s, rfl, ?_⟩
  rw [frame_eq]
  generalize envAmp s.cfg.fs s.env s.N = e
  refine ⟨passes_held .., passes_route .., passes_flt .., passes_shp .., passes_master .., passes_status ..,
    passes_cfg .., passes_input .., passes_responses .., rfl, fun j => ⟨?_, fun h => ?_, fun h => ?_⟩,
    fun c => ⟨fun h => ?_, fun h => ?_, fun h => ?_, fun h => ?_⟩⟩
  · exact passes_same openFns s e j
  · exact passes_fm_inactive openFns s e j (columnActive_eq_false h)
  · exact passes_amp_inactive openFns s e j (columnActive_eq_false h)
  · exact passes_absent openFns e s h
  · exact passes_cells Chan.bq (filterCore_bq h) (fun _ _ _ _ _ => rfl) e c
  · exact Prod.mk.inj (passes_cells (fun z => (z.svf0, z.svf1)) (filterCore_svf h) (fun _ _ _ _ _ => rfl) e c)
  · exact passes_cells Chan.svf1 (filterCore_svf1 h) (fun _ _ _ _ _ => rfl) e c

end Sys2Proof.Machine
end

section
/-! PROOFS. State a frame does not read: the fine-tune registers, the LFO flags and the dead matrix cells (rules R25,
R28, R34, R114, R117, R234, R235). -/

namespace Sys2Proof.Machine

open F64 Sys2Proof.Claims

/-! ### Two runs of a frame's passes -/

/-- A relation between two states that every pass keeps is kept by the passes of a frame. -/
theorem passes_rel {F : Fns} {e : F64} {R : State → State → Prop} {s s' : State} (hcfg : s'.cfg = s.cfg)
    (h : R s s') (hp : ∀ t t' c, R t t' → R (channelPass F e t c) (channelPass F e t' c)) :
    R (passes F e s) (passes F e s') := by
  unfold passes
  rw [hcfg]
  exact List.foldl_rel h fun c _ t t' ht => hp t t' c ht

/-! ### Fine-tune and the LFO flag -/

/-- Other values in FINE and LFO of the oscillator `j`; `i` is the number of the oscillator given. -/
def retune (j : Fin 3) (v : F64) (b : Bool) (i : Fin 3) (o : Osc) : Osc :=
  if i = j then { o with fine := v, lfo := b } else o

section

variable (j : Fin 3) (v : F64) (b : Bool)

/-- The oscillators of a block with those values. -/
def retuneAll (osc : Vector Osc 3) : Vector Osc 3 := osc.set j { osc[j] with fine := v, lfo := b }

theorem retuneAll_getElem (osc : Vector Osc 3) (i : Fin 3) :
    (retuneAll j v b osc)[i] = retune j v b i osc[i] := by
  unfold retuneAll retune
  split
  next h => subst h; simp
  next h =>
    have : j.val ≠ i.val := fun e => h (Fin.ext e.symm)
    simp [Vector.getElem_set_ne, this]

/-- Writing a register and changing FINE and LFO commute. -/
theorem retuneAll_set (osc : Vector Osc 3) (i : Fin 3) (o : Osc) :
    (retuneAll j v b osc).set i (retune j v b i o) = retuneAll j v b (osc.set i o) := by
  ext k hk : 1
  have hget := retuneAll_getElem j v b
  have h1 := hget (osc.set i o) ⟨k, hk⟩
  have h2 := hget osc ⟨k, hk⟩
  simp only [Fin.getElem_fin] at h1 h2
  rw [h1, Vector.getElem_set, Vector.getElem_set, h2]
  by_cases hik : i.val = k
  · subst hik; simp
  · simp [hik]

variable (F : Fns) (i : Fin 3) (o : Osc)

theorem play_retune (tie : SqTie) (f t : F64) (c : Fin 4) (k : Nat) :
    play F tie (retune j v b i o) f t c k = play F tie o f t c k := by
  unfold retune
  split <;> rfl

theorem rawOutput_retune (x : Ctx) (k : Nat) :
    rawOutput F x (retune j v b i o) k = rawOutput F x o k := by
  unfold retune
  split <;> rfl

theorem retune_drone : (retune j v b i o).drone = o.drone := by
  unfold retune
  split <;> rfl

theorem retune_freq : (retune j v b i o).freq = o.freq := by
  unfold retune
  split <;> rfl

theorem retune_volume : (retune j v b i o).volume = o.volume := by
  unfold retune
  split <;> rfl

theorem retune_fm (fm : F64) :
    { retune j v b i o with fm := fm } = retune j v b i { o with fm := fm } := by
  unfold retune
  split <;> rfl

theorem retune_amp (amp : F64) :
    { retune j v b i o with amp := amp } = retune j v b i { o with amp := amp } := by
  unfold retune
  split <;> rfl

/-- A pass's working state with other values in FINE and LFO. -/
def Pass.retuned (p : Pass) : Pass := { p with osc := retuneAll j v b p.osc }

variable (x : Ctx) (p : Pass)

theorem rawVoice_retuned :
    rawVoice F x (p.retuned j v b) i = (rawVoice F x p i).retuned j v b := by
  simp only [rawVoice, Pass.retuned, retuneAll_getElem, rawOutput_retune]

theorem reEvaluate_retuned :
    reEvaluate F x i (p.retuned j v b) = (reEvaluate F x i p).retuned j v b := by
  simp only [reEvaluate, Pass.retuned, retuneAll_getElem, retune_drone, retune_freq, play_retune]
  split <;> rfl

theorem fmSum_retuned : fmSum x (p.retuned j v b) i = fmSum x p i := by
  simp only [fmSum, Pass.retuned, retuneAll_getElem, retune_freq]

theorem ampProduct_retuned : ampProduct x (p.retuned j v b) i = ampProduct x p i := by
  simp only [ampProduct, Pass.retuned, retuneAll_getElem, retune_volume]

theorem pitchTarget_retuned :
    pitchTarget F x (p.retuned j v b) i = (pitchTarget F x p i).retuned j v b := by
  unfold pitchTarget
  rw [fmSum_retuned]
  split
  · rw [← reEvaluate_retuned]
    simp only [Pass.retuned, retuneAll_getElem, retune_fm, retuneAll_set]
  · rfl

theorem ampTarget_retuned :
    ampTarget F x (p.retuned j v b) i = (ampTarget F x p i).retuned j v b := by
  unfold ampTarget
  rw [ampProduct_retuned]
  split
  · rw [← reEvaluate_retuned]
    simp only [Pass.retuned, retuneAll_getElem, retune_amp, retuneAll_set]
  · rfl

/-- The block with other values in FINE and LFO of the oscillator `j`. -/
def State.retuned (s : State) : State := { s with osc := retuneAll j v b s.osc }

theorem voices_retuned (s : State) (e : F64) (c : Fin 4) :
    voices F (s.retuned j v b) e c = (voices F s e c).retuned j v b := by
  have hstep {g : Pass → Fin 3 → Pass} (hg : ∀ q i, g (q.retuned j v b) i = (g q i).retuned j v b) (q : Pass) :
      oscillators.foldl g (q.retuned j v b) = (oscillators.foldl g q).retuned j v b :=
    List.foldl_hom _ hg
  unfold voices step3 step2 step1
  rw [← hstep fun q i => ampTarget_retuned j v b F i _ q, ← hstep fun q i => pitchTarget_retuned j v b F i _ q,
    ← hstep fun q i => rawVoice_retuned j v b F i _ q]
  rfl

theorem channelPass_retuned (e : F64) (s : State) (c : Fin 4) :
    channelPass F e (s.retuned j v b) c = (channelPass F e s c).retuned j v b := by
  unfold channelPass compose
  rw [voices_retuned]
  rfl

theorem frame_retuned (s : State) : frame F (s.retuned j v b) = (frame F s).retuned j v b := by
  have hp (e : F64) : passes F e (s.retuned j v b) = (passes F e s).retuned j v b :=
    passes_rel (R := fun t t' => t' = t.retuned j v b) rfl rfl
      fun t t' c ht => ht ▸ channelPass_retuned j v b F e t c
  rw [frame_eq, frame_eq]
  simp only [State.retuned] at hp ⊢
  rw [hp]
  rfl

end

/-! ### Dead matrix cells -/

/-- Two matrices that agree on every cell a stage reads. -/
def LiveCellsAgree (r route : Vector (BitVec 9) 5) : Prop :=
  ∀ (src : Fin 5) (k : Nat), (src.val, k) ∉ deadCells → cell r src k = cell route src k

/-- A pass's context with another matrix. -/
def Ctx.rerouted (x : Ctx) (r : Vector (BitVec 9) 5) : Ctx := { x with route := r }

section

variable {x : Ctx} {r : Vector (BitVec 9) 5} (h : LiveCellsAgree r x.route)

include h

/-- No cell of the pitch and the amplitude columns is dead. -/
theorem LiveCellsAgree.modulation {col : Nat} (hcol : col < 6) (src : Fin 5) :
    cell r src col = cell x.route src col := by
  refine h src col ?_
  simp only [deadCells, List.mem_cons, Prod.mk.injEq, List.not_mem_nil, or_false]
  omega

theorem columnActive_rerouted {col : Nat} (hcol : col < 6) :
    columnActive r col = columnActive x.route col := by
  simp only [columnActive, h.modulation hcol]

theorem pitchTarget_rerouted (F : Fns) (p : Pass) (j : Fin 3) :
    pitchTarget F (x.rerouted r) p j = pitchTarget F x p j := by
  have hcol : pitchCol j < 6 := by unfold pitchCol; omega
  simp only [pitchTarget, fmSum, Ctx.rerouted, columnActive_rerouted h hcol, h.modulation hcol]
  rfl

theorem ampTarget_rerouted (F : Fns) (p : Pass) (j : Fin 3) :
    ampTarget F (x.rerouted r) p j = ampTarget F x p j := by
  have hcol : ampCol j < 6 := by unfold ampCol; omega
  simp only [ampTarget, ampProduct, Ctx.rerouted, columnActive_rerouted h hcol, h.modulation hcol]
  rfl

/-- A sum over rows that are live in its column. -/
theorem routedSum_rerouted (out : Vector F64 3) (fprev : F64) {rows : List (Fin 5)} {col : Nat}
    (hlive : ∀ src ∈ rows, (src.val, col) ∉ deadCells) :
    routedSum (x.rerouted r) out fprev rows col = routedSum x out fprev rows col := by
  unfold routedSum
  refine List.foldl_ext _ _ _ fun a src hsrc => ?_
  simp only [Ctx.rerouted, h src col (hlive src hsrc)]

theorem step4_rerouted (out : Vector F64 3) : step4 (x.rerouted r) out = step4 x out :=
  routedSum_rerouted h out _ (by decide)

theorem step6_rerouted (out : Vector F64 3) (fprev master : F64) :
    step6 (x.rerouted r) out fprev master = step6 x out fprev master := by
  unfold step6
  rw [routedSum_rerouted h out fprev (by decide)]

theorem effectiveCutoff_rerouted (F : Fns) (cutoff : F64) (out : Vector F64 3) :
    effectiveCutoff F (x.rerouted r) cutoff out = effectiveCutoff F x cutoff out := by
  have hlive : ∀ src ∈ cutoffSources, (src.val, cutoffCol) ∉ deadCells := by decide
  have hany : (cutoffSources.any fun src => cell r src cutoffCol) =
      cutoffSources.any fun src => cell x.route src cutoffCol := by
    rw [Bool.eq_iff_iff, List.any_eq_true, List.any_eq_true]
    exact exists_congr fun src => and_congr_right fun hsrc => by rw [h src cutoffCol (hlive src hsrc)]
  unfold effectiveCutoff
  rw [routedSum_rerouted h out _ hlive]
  simp only [Ctx.rerouted, hany]

end

/-- The block with another matrix. -/
def State.rerouted (s : State) (r : Vector (BitVec 9) 5) : State := { s with route := r }

section

variable {s : State} {r : Vector (BitVec 9) 5} (h : LiveCellsAgree r s.route) (F : Fns) (e : F64)

include h

theorem voices_rerouted (c : Fin 4) : voices F (s.rerouted r) e c = voices F s e c := by
  have h2 : pitchTarget F ((ctxOf s e c).rerouted r) = pitchTarget F (ctxOf s e c) :=
    funext₂ (pitchTarget_rerouted (x := ctxOf s e c) h F)
  have h3 : ampTarget F ((ctxOf s e c).rerouted r) = ampTarget F (ctxOf s e c) :=
    funext₂ (ampTarget_rerouted (x := ctxOf s e c) h F)
  unfold voices step3 step2
  rw [← h2, ← h3]
  rfl

theorem filterStage_rerouted (c : Fin 4) (out : Vector F64 3) :
    filterStage F (s.rerouted r) e c out = filterStage F s e c out := by
  unfold filterStage
  dsimp only
  rw [← effectiveCutoff_rerouted (x := ctxOf s e c) h, ← step4_rerouted (x := ctxOf s e c) h]
  rfl

theorem outputStage_rerouted (c : Fin 4) (out : Vector F64 3) (z : Chan) :
    outputStage F (s.rerouted r) e c out z = outputStage F s e c out z := by
  unfold outputStage
  rw [← step6_rerouted (x := ctxOf s e c) h]
  rfl

theorem channelPass_rerouted (c : Fin 4) :
    channelPass F e (s.rerouted r) c = (channelPass F e s c).rerouted r := by
  unfold channelPass compose
  dsimp only
  rw [voices_rerouted h, filterStage_rerouted h, outputStage_rerouted h]
  rfl

theorem frame_rerouted : frame F (s.rerouted r) = (frame F s).rerouted r := by
  have hp (e : F64) : passes F e (s.rerouted r) = (passes F e s).rerouted r :=
    (passes_rel (s := s) (s' := s.rerouted r) (R := fun t t' => LiveCellsAgree r t.route ∧ t' = t.rerouted r) rfl
      ⟨h, rfl⟩ fun t t' c ⟨hlive, ht⟩ => ⟨hlive, ht ▸ channelPass_rerouted hlive F e c⟩).2
  rw [frame_eq, frame_eq]
  simp only [State.rerouted] at hp ⊢
  rw [hp]
  rfl

end

theorem exec_frame_noFields (s : State) : exec (.frame noFields) s = .next (frame openFns s) := rfl

/-- Settles O43: every stage of a pass commutes with the change, so the passes and the frame do. -/
theorem inertStateHasNoEffectOnAFrame : Obligations.InertStateHasNoEffectOnAFrame := by
  refine ⟨fun s t j v b ht => ?_, fun s t r hr ht => ?_⟩
  all_goals
    rw [exec_frame_noFields, Host.Outcome.next.injEq] at ht
    subst ht
    rw [exec_frame_noFields]
  · exact congrArg _ (frame_retuned j v b openFns s)
  · exact congrArg _ (frame_rerouted hr openFns)

end Sys2Proof.Machine
end

section
/-! PROOFS. Which command writes what (rules R21 to R44, R282): the states an accepted command can leave, by its
opcode, and what they keep of each register group. -/

namespace Sys2Proof.Machine

open F64 Sys2Proof.Claims

/-! ### The setters of a register group, by their opcodes (rules R110 to R119, R150 to R153, R195 to R202) -/

inductive OscSetter : BitVec 8 → (Osc → Osc) → Prop
  | wave (w : Wave) : OscSetter 0x01 fun o => { o with wave := w }
  | volume (d : F64) : OscSetter 0x02 fun o => { o with volume := d, amp := d }
  | gain (k : Fin 4) (d : F64) : OscSetter 0x03 fun o => { o with gain := o.gain.set k d }
  | freq (d : F64) : OscSetter 0x04 fun o => { o with freq := d }
  | fine (d : F64) : OscSetter 0x05 fun o => { o with fine := d }
  | octave (n : Int) : OscSetter 0x06 fun o => { o with octave := n }
  | drone (v : Bool) : OscSetter 0x07 fun o => { o with drone := v }
  | lfo (v : Bool) : OscSetter 0x08 fun o => { o with lfo := v }
  | fm (d : F64) : OscSetter 0x09 fun o => { o with fm := d }
  | amp (d : F64) : OscSetter 0x0A fun o => { o with amp := d }

inductive EnvSetter : BitVec 8 → (Env → Env) → Prop
  | attack (d : F64) : EnvSetter 0x10 fun v => { v with attack := d }
  | decay (d : F64) : EnvSetter 0x11 fun v => { v with decay := d }
  | sustain (d : F64) : EnvSetter 0x12 fun v => { v with sustain := d }
  | release (d : F64) : EnvSetter 0x13 fun v => { v with release := d }

inductive FltSetter : BitVec 8 → (Flt → Flt) → Prop
  | cutoff (d : F64) : FltSetter 0x20 fun v => { v with cutoff := d }
  | res (d : F64) : FltSetter 0x21 fun v => { v with res := d }
  | poles (p : Poles) : FltSetter 0x22 fun v => { v with poles := p }
  | mode (m : FltMode) : FltSetter 0x23 fun v => { v with mode := m }

inductive ShpSetter : BitVec 8 → (Shp → Shp) → Prop
  | clipEn (b : Bool) : ShpSetter 0x24 fun v => { v with clipEn := b }
  | clipPos (d : F64) : ShpSetter 0x25 fun v => { v with clipPos := d }
  | clipNeg (d : F64) : ShpSetter 0x26 fun v => { v with clipNeg := d }
  | crush (b : Fin 25) : ShpSetter 0x27 fun v => { v with crush := b }

/-! ### The states an accepted command leaves -/

/-- The states an accepted command with this opcode can leave, by the registers it writes. `Effect` says what the
written values keep true; here the opcode says which registers they are. -/
inductive Writes (s : State) : BitVec 8 → State → Prop
  | nop : Writes s 0x00 s
  | osc {op : BitVec 8} {upd : Osc → Osc} (j : Fin 3) (h : OscSetter op upd) : Writes s op (s.updOsc j upd)
  | env {op : BitVec 8} {upd : Env → Env} (h : EnvSetter op upd) : Writes s op { s with env := upd s.env }
  | route (src : Fin 5) (f : BitVec 9 → BitVec 9) : Writes s 0x18 (s.updRoute src f)
  | flt {op : BitVec 8} {upd : Flt → Flt} (h : FltSetter op upd) : Writes s op { s with flt := upd s.flt }
  | shp {op : BitVec 8} {upd : Shp → Shp} (h : ShpSetter op upd) : Writes s op { s with shp := upd s.shp }
  | master (d : F64) : Writes s 0x28 { s with master := d }
  | noteOn (held : List (BitVec 7)) (nOn : BitVec 64) (active released : Bool) (st : BitVec 5)
      (h : st = s.status ∨ st = setFlag .noteFull s.status) :
      Writes s 0x30
        { s with
          held := held, env := { s.env with nOn := nOn, active := active, released := released }, status := st }
  | noteOff (held : List (BitVec 7)) (nOff : BitVec 64) (aOff : F64) (released : Bool) :
      Writes s 0x31
        { s with held := held, env := { s.env with nOff := nOff, aOff := aOff, released := released } }
  | frame (osc : Vector Osc 3) (chan : Vector Chan 4) (draws : Nat) (frames : List (List Sample)) (active : Bool)
      (T : F64) (N : BitVec 64) (h : ∀ j : Fin 3, s.osc[j].Same osc[j]) :
      Writes s 0x40
        { s with
          osc := osc, chan := chan, draws := draws, frames := frames, env := { s.env with active := active },
          T := T, N := N }
  | time (d : F64) : Writes s 0x41 { s with T := d }
  | read (responses : List Image) (st : BitVec 5) (h : st = s.status ∨ st = setFlag .badAddr s.status) :
      Writes s 0x50 { s with responses := responses, status := st }
  | statusClr (m : BitVec 5) : Writes s 0x51 { s with status := clearFlags m s.status }
  | reset : Writes s 0x7F (resetRegisters s)

theorem noteOn_is_write (n : BitVec 7) (s : State) : Writes s 0x30 (Machine.noteOn n s) := by
  rcases noteOn_cases n s with ⟨-, h⟩ | ⟨-, -, h⟩ | ⟨-, -, h⟩ <;> rw [h]
  · exact .noteOn s.held s.env.nOn s.env.active s.env.released s.status (.inl rfl)
  · exact .noteOn s.held s.env.nOn s.env.active s.env.released _ (.inr rfl)
  · unfold addNote
    split
    · exact .noteOn (s.held ++ [n]) s.N true false s.status (.inl rfl)
    · exact .noteOn (s.held ++ [n]) s.env.nOn s.env.active s.env.released s.status (.inl rfl)

theorem noteOff_is_write (n : BitVec 7) (s : State) : Writes s 0x31 (Machine.noteOff n s) := by
  rcases noteOff_cases n s with ⟨-, h⟩ | ⟨-, -, h⟩ | ⟨-, -, h⟩ <;> rw [h]
  · exact .noteOff s.held s.env.nOff s.env.aOff s.env.released
  · exact .noteOff (s.held.erase n) s.N (envAmp s.cfg.fs s.env s.N) true
  · exact .noteOff (s.held.erase n) s.env.nOff s.env.aOff s.env.released

theorem readRegister_is_write (a : BitVec 16) (s : State) : Writes s 0x50 (readRegister a s) := by
  rcases readRegister_cases a s with ⟨v, -, h⟩ | ⟨-, h⟩ <;> rw [h]
  · exact .read _ s.status (.inl rfl)
  · exact .read _ _ (.inr rfl)

/-- The passes of a frame write the oscillators, the channels and the draw counter alone. -/
theorem passes_writes (F : Fns) (e : F64) (s : State) :
    ∃ chan draws, passes F e s = { s with osc := (passes F e s).osc, chan := chan, draws := draws } := by
  refine passes_induction
    (P := fun t => ∃ chan draws, t = { s with osc := t.osc, chan := chan, draws := draws }) s ⟨_, _, rfl⟩ ?_
  rintro t c ⟨chan, draws, ht⟩
  rw [ht]
  exact ⟨_, _, rfl⟩

theorem frame_is_write (s : State) : Writes s 0x40 (Machine.frame openFns s) := by
  have hsame := passes_same openFns s (envAmp s.cfg.fs s.env s.N)
  obtain ⟨chan, draws, hp⟩ := passes_writes openFns (envAmp s.cfg.fs s.env s.N) s
  rw [frame_eq]
  generalize passes openFns (envAmp s.cfg.fs s.env s.N) s = t at *
  rw [hp]
  exact .frame t.osc chan draws _ _ _ _ hsame

/-! ### From a command to what it writes -/

section

variable {P : State → Prop} {α β γ : Type}

/-- A state computed after one operand, whichever operand it is. -/
theorem forall_bind_some {o : Option α} {g : α → State} (h : ∀ v, P (g v)) (u : State)
    (hu : (do let v ← o; some (g v)) = some u) : P u := by
  obtain ⟨v, -, hv⟩ := Option.bind_eq_some_iff.1 hu
  exact Option.some.inj hv ▸ h v

/-- A state computed after two operands. -/
theorem forall_bind₂_some {o : Option α} {p : Option β} {g : α → β → State} (h : ∀ v w, P (g v w)) (u : State)
    (hu : (do let v ← o; let w ← p; some (g v w)) = some u) : P u := by
  obtain ⟨v, -, hv⟩ := Option.bind_eq_some_iff.1 hu
  exact forall_bind_some (h v) u hv

/-- A state computed after three operands. -/
theorem forall_bind₃_some {o : Option α} {p : Option β} {q : Option γ} {g : α → β → γ → State}
    (h : ∀ v w x, P (g v w x)) (u : State) (hu : (do let v ← o; let w ← p; let x ← q; some (g v w x)) = some u) :
    P u := by
  obtain ⟨v, -, hv⟩ := Option.bind_eq_some_iff.1 hu
  exact forall_bind₂_some (h v) u hv

end

/-- Every command is the outcome of its format on one option of a state (`exec_format`), and that state is one its
opcode can write. -/
theorem exec_writes (i : Instr) (s : State) :
    ∃ r : Option State, exec i s = (match i.data with
        | none => command r s
        | some d => commandD r d s) ∧ r.isSome = i.fieldsOk ∧ ∀ u, r = some u → Writes s i.parts.1 u := by
  have hi : ∀ x : BitVec 16, x.toNat ≤ 65535 := fun x => by have := x.isLt; omega
  cases i <;> refine ⟨_, rfl, by
    simp [Instr.fieldsOk, Fields.oscOnly, Fields.oscImm, Fields.immUpTo, Option.isSome_bind, any_const,
      noOperands_isSome, unused_isSome, oscForm_isSome, srcForm_isSome, routeForm_isSome, bitsForm_isSome,
      kindForm_isSome, flagForm_isSome, modeForm_isSome, polesForm_isSome, noteForm_isSome, maskForm_isSome, hi,
      Bool.and_assoc], ?_⟩
  case nop => exact forall_bind_some fun _ => .nop
  case oscWave => exact forall_bind₃_some fun j _ w => .osc j (.wave w)
  case oscVolume _ d => exact forall_bind₃_some fun j _ _ => .osc j (.volume d)
  case oscFreq _ d => exact forall_bind₃_some fun j _ _ => .osc j (.freq d)
  case oscFine _ d => exact forall_bind₃_some fun j _ _ => .osc j (.fine d)
  case oscFm _ d => exact forall_bind₃_some fun j _ _ => .osc j (.fm d)
  case oscAm _ d => exact forall_bind₃_some fun j _ _ => .osc j (.amp d)
  case oscGain f d => exact forall_bind₂_some fun j _ => .osc j (.gain (chForm f.b) d)
  case oscOctave f => exact forall_bind₂_some fun j _ => .osc j (.octave (octaveForm f.imm))
  case oscDrone => exact forall_bind₃_some fun j _ v => .osc j (.drone v)
  case oscLfo => exact forall_bind₃_some fun j _ v => .osc j (.lfo v)
  case envAttack _ d => exact forall_bind_some fun _ => .env (.attack (clampWindow d))
  case envDecay _ d => exact forall_bind_some fun _ => .env (.decay (clampWindow d))
  case envRelease _ d => exact forall_bind_some fun _ => .env (.release (clampWindow d))
  case envSustain _ d => exact forall_bind_some fun _ => .env (.sustain (clamp d zero one))
  case routeSet => exact forall_bind₃_some fun src r v => .route src (routeRow r v)
  case fltCutoff _ d => exact forall_bind_some fun _ => .flt (.cutoff d)
  case fltRes _ d => exact forall_bind_some fun _ => .flt (.res (clamp d Config.qMin Config.qMax))
  case fltPoles => exact forall_bind₃_some fun _ _ p => .flt (.poles p)
  case fltMode => exact forall_bind₃_some fun _ _ m => .flt (.mode m)
  case shpClipEn => exact forall_bind₃_some fun _ _ v => .shp (.clipEn v)
  case shpClipPos _ d => exact forall_bind_some fun _ => .shp (.clipPos d)
  case shpClipNeg _ d => exact forall_bind_some fun _ => .shp (.clipNeg d)
  case shpCrush => exact forall_bind₃_some fun _ _ b => .shp (.crush b)
  case mixMaster _ d => exact forall_bind_some fun _ => .master d
  case noteOn => exact forall_bind₃_some fun _ _ n => noteOn_is_write n s
  case noteOff => exact forall_bind₃_some fun _ _ n => noteOff_is_write n s
  case frame => exact forall_bind_some fun _ => frame_is_write s
  case timeSet _ d => exact forall_bind_some fun _ => .time d
  case read f => exact forall_bind₂_some fun _ _ => readRegister_is_write f.imm s
  case statusClr => exact forall_bind₃_some fun _ _ m => .statusClr m
  case softReset => exact forall_bind_some fun _ => .reset

/-- A command that answers a next state raised BAD_FIELD, or raised NONFINITE, or was accepted and left a state its
opcode writes. -/
theorem exec_outcome {i : Instr} {s t : State} (h : exec i s = .next t) :
    (i.fieldsOk = false ∧ t = raise .badField s) ∨
    (i.fieldsOk = true ∧ i.dataOk = false ∧ t = raise .nonfinite s) ∨ Writes s i.parts.1 t := by
  rcases exec_cases h with hb | hn | hok
  · exact .inl hb
  · exact .inr (.inl hn)
  obtain ⟨hf, hd⟩ := Bool.and_eq_true_iff.1 hok
  obtain ⟨r, hr, hsome, hw⟩ := exec_writes i s
  obtain ⟨u, rfl⟩ := Option.isSome_iff_exists.1 (hsome.trans hf)
  have hu : exec i s = .next u := by
    rw [hr]
    cases hdata : i.data with
    | none => rfl
    | some d => exact commandD_some_finite u s (by simpa [Instr.dataOk, hdata] using hd)
  rw [h, Host.Outcome.next.injEq] at hu
  exact .inr (.inr (hu ▸ hw u rfl))

/-- What a raised error keeps and every write keeps, a command keeps. -/
theorem exec_induction {P : State → Prop} {i : Instr} {s t : State} (h : exec i s = .next t)
    (hraise : ∀ e, P (raise e s)) (hwrite : ∀ u, Writes s i.parts.1 u → P u) : P t := by
  rcases exec_outcome h with ⟨-, rfl⟩ | ⟨-, -, rfl⟩ | hw
  · exact hraise _
  · exact hraise _
  · exact hwrite t hw

/-! ### What is kept of each register group, by the opcode -/

/-- Each register of an oscillator is as before but for the opcodes that write it (rules R21 to R30). -/
structure OscKept (op : BitVec 8) (o o' : Osc) : Prop where
  wave : op ∉ [0x7F#8, 0x01#8] → o'.wave = o.wave
  volume : op ∉ [0x7F#8, 0x02#8] → o'.volume = o.volume
  amp : op ∉ [0x7F#8, 0x02#8, 0x0A#8, 0x40#8] → o'.amp = o.amp
  freq : op ∉ [0x7F#8, 0x04#8] → o'.freq = o.freq
  fine : op ∉ [0x7F#8, 0x05#8] → o'.fine = o.fine
  octave : op ∉ [0x7F#8, 0x06#8] → o'.octave = o.octave
  drone : op ∉ [0x7F#8, 0x07#8] → o'.drone = o.drone
  lfo : op ∉ [0x7F#8, 0x08#8] → o'.lfo = o.lfo
  fm : op ∉ [0x7F#8, 0x09#8, 0x40#8] → o'.fm = o.fm
  gain : op ∉ [0x7F#8, 0x03#8] → o'.gain = o.gain

/-- Each register of the envelope is as before but for the opcodes that write it (rules R31, R32). -/
structure EnvKept (op : BitVec 8) (v v' : Env) : Prop where
  attack : op ∉ [0x7F#8, 0x10#8] → v'.attack = v.attack
  decay : op ∉ [0x7F#8, 0x11#8] → v'.decay = v.decay
  sustain : op ∉ [0x7F#8, 0x12#8] → v'.sustain = v.sustain
  release : op ∉ [0x7F#8, 0x13#8] → v'.release = v.release
  active : op ∉ [0x7F#8, 0x30#8, 0x40#8] → v'.active = v.active
  released : op ∉ [0x7F#8, 0x30#8, 0x31#8] → v'.released = v.released
  nOn : op ∉ [0x7F#8, 0x30#8] → v'.nOn = v.nOn
  captured : op ∉ [0x7F#8, 0x31#8] → (v'.nOff, v'.aOff) = (v.nOff, v.aOff)

/-- Each register of the filter is as before but for the opcodes that write it (rule R35). -/
structure FltKept (op : BitVec 8) (v v' : Flt) : Prop where
  cutoff : op ∉ [0x7F#8, 0x20#8] → v'.cutoff = v.cutoff
  res : op ∉ [0x7F#8, 0x21#8] → v'.res = v.res
  poles : op ∉ [0x7F#8, 0x22#8] → v'.poles = v.poles
  mode : op ∉ [0x7F#8, 0x23#8] → v'.mode = v.mode

/-- Each register of the shapers is as before but for the opcodes that write it (rule R36). -/
structure ShpKept (op : BitVec 8) (v v' : Shp) : Prop where
  clipEn : op ∉ [0x7F#8, 0x24#8] → v'.clipEn = v.clipEn
  clipPos : op ∉ [0x7F#8, 0x25#8] → v'.clipPos = v.clipPos
  clipNeg : op ∉ [0x7F#8, 0x26#8] → v'.clipNeg = v.clipNeg
  crush : op ∉ [0x7F#8, 0x27#8] → v'.crush = v.crush

/-- Each field of the state that is no group of its own is as before but for the opcodes that write it (rules R33,
R34, R37 to R42). -/
structure RestKept (op : BitVec 8) (s t : State) : Prop where
  held : op ∉ [0x7F#8, 0x30#8, 0x31#8] → t.held = s.held
  route : op ∉ [0x7F#8, 0x18#8] → t.route = s.route
  master : op ∉ [0x7F#8, 0x28#8] → t.master = s.master
  output : op ∉ [0x7F#8, 0x40#8] → (t.chan, t.draws, t.frames) = (s.chan, s.draws, s.frames)
  time : op ∉ [0x7F#8, 0x40#8, 0x41#8] → t.T = s.T
  count : op ∉ [0x7F#8, 0x40#8] → t.N = s.N
  responses : op ∉ [0x50#8] → t.responses = s.responses
  environment : op ∉ [] → (t.cfg, t.input) = (s.cfg, s.input)

section

variable {op : BitVec 8}

theorem OscKept.refl (o : Osc) : OscKept op o o := by constructor <;> exact fun _ => rfl

theorem EnvKept.refl (v : Env) : EnvKept op v v := by constructor <;> exact fun _ => rfl

theorem FltKept.refl (v : Flt) : FltKept op v v := by constructor <;> exact fun _ => rfl

theorem ShpKept.refl (v : Shp) : ShpKept op v v := by constructor <;> exact fun _ => rfl

theorem OscSetter.kept {upd : Osc → Osc} (h : OscSetter op upd) (o : Osc) : OscKept op o (upd o) := by
  cases h <;> constructor <;> simp

theorem EnvSetter.kept {upd : Env → Env} (h : EnvSetter op upd) (v : Env) : EnvKept op v (upd v) := by
  cases h <;> constructor <;> simp

theorem FltSetter.kept {upd : Flt → Flt} (h : FltSetter op upd) (v : Flt) : FltKept op v (upd v) := by
  cases h <;> constructor <;> simp

theorem ShpSetter.kept {upd : Shp → Shp} (h : ShpSetter op upd) (v : Shp) : ShpKept op v (upd v) := by
  cases h <;> constructor <;> simp

/-- FRAME keeps of an oscillator all but FM and AMP. -/
theorem oscKept_of_same {o o' : Osc} (h : o.Same o') : OscKept 0x40 o o' := by
  rw [h]
  constructor <;> simp

/-- SOFT_RESET writes every register of an oscillator. -/
theorem oscKept_reset (o o' : Osc) : OscKept 0x7F o o' := by constructor <;> simp

variable {s t : State}

theorem Writes.oscKept (h : Writes s op t) (j : Fin 3) : OscKept op s.osc[j] t.osc[j] := by
  cases h with
  | @osc _ upd i hset =>
    by_cases hj : j = i
    · subst hj
      rw [State.updOsc_self]
      exact hset.kept _
    · rw [State.updOsc_other s _ hj]
      exact .refl _
  | frame osc chan draws frames active T N hsame => exact oscKept_of_same (hsame j)
  | reset => exact oscKept_reset _ _
  | nop | env | route | flt | shp | master | noteOn | noteOff | time | read | statusClr => exact .refl _

theorem Writes.envKept (h : Writes s op t) : EnvKept op s.env t.env := by
  cases h with
  | env hset => exact hset.kept _
  | noteOn | noteOff | frame | reset => constructor <;> simp
  | nop | osc | route | flt | shp | master | time | read | statusClr => exact .refl _

theorem Writes.fltKept (h : Writes s op t) : FltKept op s.flt t.flt := by
  cases h with
  | flt hset => exact hset.kept _
  | reset => constructor <;> simp
  | nop | osc | env | route | shp | master | noteOn | noteOff | frame | time | read | statusClr => exact .refl _

theorem Writes.shpKept (h : Writes s op t) : ShpKept op s.shp t.shp := by
  cases h with
  | shp hset => exact hset.kept _
  | reset => constructor <;> simp
  | nop | osc | env | route | flt | master | noteOn | noteOff | frame | time | read | statusClr => exact .refl _

theorem Writes.restKept (h : Writes s op t) : RestKept op s t := by
  cases h with
  | nop | osc | env | flt | shp | statusClr => constructor <;> exact fun _ => rfl
  | route | master | noteOn | noteOff | frame | time | read | reset => constructor <;> simp

variable {i : Instr} (h : exec i s = .next t)

include h

theorem exec_oscKept (j : Fin 3) : OscKept i.parts.1 s.osc[j] t.osc[j] :=
  exec_induction (P := fun t => OscKept i.parts.1 s.osc[j] t.osc[j]) h (fun _ => .refl _) fun _ hw => hw.oscKept j

theorem exec_envKept : EnvKept i.parts.1 s.env t.env :=
  exec_induction (P := fun t => EnvKept i.parts.1 s.env t.env) h (fun _ => .refl _) fun _ hw => hw.envKept

theorem exec_fltKept : FltKept i.parts.1 s.flt t.flt :=
  exec_induction (P := fun t => FltKept i.parts.1 s.flt t.flt) h (fun _ => .refl _) fun _ hw => hw.fltKept

theorem exec_shpKept : ShpKept i.parts.1 s.shp t.shp :=
  exec_induction (P := fun t => ShpKept i.parts.1 s.shp t.shp) h (fun _ => .refl _) fun _ hw => hw.shpKept

theorem exec_restKept : RestKept i.parts.1 s t :=
  exec_induction h (fun _ => by constructor <;> exact fun _ => rfl) fun _ hw => hw.restKept

end

/-! ### STATUS (rules R44, R282) -/

/-- The number of an error's STATUS bit (rule R282). -/
def errBit : Err → Nat
  | .illegalOp => 0
  | .badField => 1
  | .nonfinite => 2
  | .noteFull => 3
  | .badAddr => 4

theorem errMask_eq_twoPow (e : Err) : errMask e = BitVec.twoPow 5 (errBit e) := by
  cases e <;> rfl

/-- An error sets its own bit alone. -/
theorem eq_errBit_of_setFlag {e : Err} {st : BitVec 5} {k : Nat} (h0 : st.getLsbD k = false)
    (h1 : (setFlag e st).getLsbD k = true) : k = errBit e := by
  rw [setFlag, BitVec.getLsbD_or, h0, Bool.false_or, errMask_eq_twoPow, BitVec.getLsbD_twoPow] at h1
  exact (of_decide_eq_true (Bool.and_eq_true_iff.1 h1).2).symm

theorem clearFlags_le {m st : BitVec 5} {k : Nat} (h : (clearFlags m st).getLsbD k = true) :
    st.getLsbD k = true := by
  rw [clearFlags, BitVec.getLsbD_and] at h
  exact (Bool.and_eq_true_iff.1 h).1

section

variable {op : BitVec 8} {s t : State} {k : Nat}

/-- An accepted command clears a STATUS bit by STATUS_CLR and SOFT_RESET alone. -/
theorem Writes.status_cleared (h : Writes s op t) (h1 : s.status.getLsbD k = true)
    (h0 : t.status.getLsbD k = false) : op = 0x51#8 ∨ op = 0x7F#8 := by
  cases h with
  | statusClr => exact .inl rfl
  | reset => exact .inr rfl
  | noteOn held nOn active released st hst =>
    rcases hst with rfl | rfl
    · simp [h1] at h0
    · simp [setFlag_keeps h1] at h0
  | read responses st hst =>
    rcases hst with rfl | rfl
    · simp [h1] at h0
    · simp [setFlag_keeps h1] at h0
  | nop | osc | env | route | flt | shp | master | noteOff | frame | time => simp [h1] at h0

/-- An accepted command sets NOTE_FULL by NOTE_ON, BAD_ADDR by READ and no other STATUS bit. -/
theorem Writes.status_set (h : Writes s op t) (h0 : s.status.getLsbD k = false)
    (h1 : t.status.getLsbD k = true) : (k = 3 ∧ op = 0x30#8) ∨ (k = 4 ∧ op = 0x50#8) := by
  cases h with
  | noteOn held nOn active released st hst =>
    rcases hst with rfl | rfl
    · simp [h0] at h1
    · exact .inl ⟨eq_errBit_of_setFlag h0 h1, rfl⟩
  | read responses st hst =>
    rcases hst with rfl | rfl
    · simp [h0] at h1
    · exact .inr ⟨eq_errBit_of_setFlag h0 h1, rfl⟩
  | statusClr m => simp [clearFlags_le h1] at h0
  | reset => simp [State.resetWith] at h1
  | nop | osc | env | route | flt | shp | master | noteOff | frame | time => simp [h0] at h1

variable {i : Instr} (h : exec i s = .next t)

include h

theorem exec_status_cleared (h1 : s.status.getLsbD k = true) (h0 : t.status.getLsbD k = false) :
    i.parts.1 = 0x51#8 ∨ i.parts.1 = 0x7F#8 := by
  rcases exec_outcome h with ⟨-, rfl⟩ | ⟨-, -, rfl⟩ | hw
  · simp [setFlag_keeps h1] at h0
  · simp [setFlag_keeps h1] at h0
  · exact hw.status_cleared h1 h0

theorem exec_status_set (h0 : s.status.getLsbD k = false) (h1 : t.status.getLsbD k = true) :
    (k = 1 ∧ i.fieldsOk = false) ∨ (k = 2 ∧ i.fieldsOk = true ∧ i.dataOk = false) ∨
      (k = 3 ∧ i.parts.1 = 0x30#8) ∨ (k = 4 ∧ i.parts.1 = 0x50#8) := by
  rcases exec_outcome h with ⟨hf, rfl⟩ | ⟨hf, hd, rfl⟩ | hw
  · exact .inl ⟨eq_errBit_of_setFlag h0 h1, hf⟩
  · exact .inr (.inl ⟨eq_errBit_of_setFlag h0 h1, hf, hd⟩)
  · exact .inr (.inr (hw.status_set h0 h1))

end

/-- Settles O12: a refused command only sets a bit, and of the accepted ones STATUS_CLR and SOFT_RESET alone clear
one. -/
theorem statusBitsAreSticky : Obligations.StatusBitsAreSticky := by
  intro i s t k h hop h1
  by_contra h0
  exact hop (by simpa using exec_status_cleared h h1 (by simpa using h0))

/-- Settles O13: an error writes STATUS alone, and an accepted command leaves one of the states of `Writes`, read
off register by register. -/
theorem registersHaveOnlyTheirWriters : Obligations.RegistersHaveOnlyTheirWriters := by
  refine ⟨fun j => ⟨?_, ?_, ?_, ?_, ?_, ?_, ?_, ?_, ?_, ?_⟩, ?_, ?_, ?_, ?_, ?_, ?_, ?_, ?_, ?_, ?_, ?_, ?_, ?_, ?_,
    ?_, ?_, ?_, ?_, ?_, ?_, ?_, ?_, ?_, fun i s t k h => ⟨exec_status_cleared h, exec_status_set h⟩, ?_⟩
  · exact fun _ _ _ h => (exec_oscKept h j).wave
  · exact fun _ _ _ h => (exec_oscKept h j).volume
  · exact fun _ _ _ h => (exec_oscKept h j).amp
  · exact fun _ _ _ h => (exec_oscKept h j).freq
  · exact fun _ _ _ h => (exec_oscKept h j).fine
  · exact fun _ _ _ h => (exec_oscKept h j).octave
  · exact fun _ _ _ h => (exec_oscKept h j).drone
  · exact fun _ _ _ h => (exec_oscKept h j).lfo
  · exact fun _ _ _ h => (exec_oscKept h j).fm
  · exact fun _ _ _ h => (exec_oscKept h j).gain
  · exact fun _ _ _ h => (exec_envKept h).attack
  · exact fun _ _ _ h => (exec_envKept h).decay
  · exact fun _ _ _ h => (exec_envKept h).sustain
  · exact fun _ _ _ h => (exec_envKept h).release
  · exact fun _ _ _ h => (exec_envKept h).active
  · exact fun _ _ _ h => (exec_envKept h).released
  · exact fun _ _ _ h => (exec_envKept h).nOn
  · exact fun _ _ _ h => (exec_envKept h).captured
  · exact fun _ _ _ h => (exec_restKept h).held
  · exact fun _ _ _ h => (exec_restKept h).route
  · exact fun _ _ _ h => (exec_fltKept h).cutoff
  · exact fun _ _ _ h => (exec_fltKept h).res
  · exact fun _ _ _ h => (exec_fltKept h).poles
  · exact fun _ _ _ h => (exec_fltKept h).mode
  · exact fun _ _ _ h => (exec_shpKept h).clipEn
  · exact fun _ _ _ h => (exec_shpKept h).clipPos
  · exact fun _ _ _ h => (exec_shpKept h).clipNeg
  · exact fun _ _ _ h => (exec_shpKept h).crush
  · exact fun _ _ _ h => (exec_restKept h).master
  · exact fun _ _ _ h => (exec_restKept h).output
  · exact fun _ _ _ h => (exec_restKept h).time
  · exact fun _ _ _ h => (exec_restKept h).count
  · exact fun _ _ _ h => (exec_restKept h).responses
  · exact fun _ _ _ h => (exec_restKept h).environment

end Sys2Proof.Machine
end

section
/-! PROOFS. The transports and the steps: a command decodes from its own words and from their bytes, and a step
takes the words that arrived (rules R65, R66, R70, R82, R92, R294). -/

namespace Sys2Proof.Machine

open Sys2Proof.Claims

/-! ### A command decodes from its words (rules R80, R85, R92) -/

/-- The opcode map sends a command's opcode to the command's own constructor. -/
theorem opcodeMap_parts (i : Instr) :
    (∃ mk, opcodeMap i.parts.1 = some (.h mk) ∧ i.parts.2.2 = none ∧ i = mk i.parts.2.1) ∨
    (∃ mk d, opcodeMap i.parts.1 = some (.hd mk) ∧ i.parts.2.2 = some d ∧ i = mk i.parts.2.1 d) := by
  cases i with
  | nop | oscWave | oscOctave | oscDrone | oscLfo | routeSet | fltPoles | fltMode | shpClipEn | shpCrush | noteOn
  | noteOff | frame | read | statusClr | softReset => exact .inl ⟨_, rfl, rfl, rfl⟩
  | oscVolume | oscGain | oscFreq | oscFine | oscFm | oscAm | envAttack | envDecay | envSustain | envRelease
  | fltCutoff | fltRes | shpClipPos | shpClipNeg | mixMaster | timeSet => exact .inr ⟨_, _, rfl, rfl, rfl⟩

/-- A command decodes from its words, whatever follows them. -/
theorem decode_encode (i : Instr) (rest : List Word) : decode (encode i ++ rest) = .ok i := by
  unfold encode
  rcases opcodeMap_parts i with ⟨mk, hop, hd, hi⟩ | ⟨mk, d, hop, hd, hi⟩
  · have hdec := decode_h hop i.parts.2.1 rest
    rw [← hi] at hdec
    rwa [hd]
  · have hdec := decode_hd hop i.parts.2.1 (d.bits.extractLsb' 0 32) (d.bits.extractLsb' 32 32) rest
    rw [dataOf_dataWords, ← hi] at hdec
    rwa [hd]

/-! ### Byte transports (rule R65) -/

theorem wordsOfBytes_bytesOfWord (w : Word) (bs : List Byte) :
    wordsOfBytes (bytesOfWord w ++ bs) = w :: wordsOfBytes bs := by
  have hw : w.extractLsb' 24 8 ++ w.extractLsb' 16 8 ++ w.extractLsb' 8 8 ++ w.extractLsb' 0 8 = w := by
    ext i hi
    simp only [BitVec.getElem_append, BitVec.getElem_extractLsb']
    grind
  exact congrArg (· :: wordsOfBytes bs) hw

theorem wordsOfBytes_flatMap (ws : List Word) : wordsOfBytes (ws.flatMap bytesOfWord) = ws := by
  induction ws with
  | nil => rfl
  | cons w ws ih => rw [List.flatMap_cons, wordsOfBytes_bytesOfWord, ih]

/-- Settles O4: a word's four bytes are joined to the word again, and a command decodes from its words. -/
theorem byteTransportIsLittleEndian : Obligations.ByteTransportIsLittleEndian := by
  refine ⟨fun _ => rfl, wordsOfBytes_flatMap, fun i => ?_⟩
  rw [decodeBytes, wordsOfBytes_flatMap]
  simpa using decode_encode i []

/-! ### Steps on a stream of words -/

theorem step_of_decode {s : State} {i : Instr} (h : decode (leadingWords s.input) = .ok i) :
    step s = exec i { s with input := s.input.drop i.words } := by
  simp [step, fetch, h]

/-- Settles O5: the fetched command is the decoded one, and an encoding at the head of the input is decoded and
consumed. -/
theorem stepExecutesTheDecodedCommand : Obligations.StepExecutesTheDecodedCommand := by
  refine ⟨fun _ _ => step_of_decode, fun s i rest hin => ?_⟩
  have hdec : decode (leadingWords s.input) = .ok i := by
    rw [hin, leadingWords_words, decode_encode]
  have hdrop : s.input.drop i.words = rest := by
    rw [hin]
    exact List.drop_left' (by simp [Instr.words])
  rw [step_of_decode hdec, hdrop]

theorem opcodeMap_hdOps {op : BitVec 8} (h : op.toNat ∈ hdOps) : ∃ mk, opcodeMap op = some (.hd mk) := by
  unfold opcodeMap
  generalize op.toNat = n at h ⊢
  unfold hdOps at h
  fin_cases h <;> exact ⟨_, rfl⟩

/-- The words of a cut command are no command yet. -/
theorem decode_cut {ws : List Word} (h : Cut ws) : decode ws = .error .truncated := by
  rcases h with rfl | ⟨hw, hop, hws⟩
  · rfl
  obtain ⟨mk, hmk⟩ := opcodeMap_hdOps (op := opField hw) hop
  rcases hws with rfl | ⟨w, rfl⟩ <;> simp [decode, hmk]

/-- Settles O6: the words are no command yet and no reset follows them, so the block waits. -/
theorem cutStreamLeavesTheBlockWaiting : Obligations.CutStreamLeavesTheBlockWaiting := by
  intro s ws hcut hin
  have hlead : leadingWords s.input = ws := by
    simpa [hin, leadingWords] using leadingWords_words ws []
  have hafter : afterWords s.input = [] := by
    simpa [hin, afterWords] using afterWords_words ws []
  simp [step, fetch, hlead, hafter, decode_cut hcut]

end Sys2Proof.Machine
end

section
/-! PROOFS. READ and its address map: a register of rule R62 is found at its address and nowhere else, and READ
answers the register its address names (rules R62, R64, R71, R264). -/

namespace Sys2Proof.Machine

open Sys2Proof.Claims

/-! ### Tables of registers with consecutive addresses (rule R62) -/

section

variable {l : List Reg} {m base n : Nat} {r : Reg} (hl : l.map Reg.addr = (List.range m).map (base + ·))

include hl

/-- The entry number `n` of a table of consecutive registers has the address `n` after its first. -/
theorem addr_of_getElem? (h : l[n]? = some r) : n < m ∧ r.addr = base + n := by
  have hn : (l.map Reg.addr)[n]? = some r.addr := by simp [h]
  rw [hl, List.getElem?_map, Option.map_eq_some_iff] at hn
  obtain ⟨k, hk, hr⟩ := hn
  obtain ⟨hlt, rfl⟩ : n < m ∧ n = k := by simpa [List.getElem?_eq_some_iff] using hk
  exact ⟨hlt, hr.symm⟩

theorem exists_getElem?_of_mem (h : r ∈ l) : ∃ n < m, r.addr = base + n ∧ l[n]? = some r := by
  obtain ⟨n, hn⟩ := List.getElem?_of_mem h
  obtain ⟨hlt, ha⟩ := addr_of_getElem? hl hn
  exact ⟨n, hlt, ha, hn⟩

/-- A look-up in a table of consecutive registers finds a register of the table at its address alone. -/
theorem getElem?_table : l[n]? = some r ↔ r ∈ l ∧ r.addr = base + n := by
  refine ⟨fun h => ⟨List.mem_of_getElem? h, (addr_of_getElem? hl h).2⟩, fun ⟨hm, ha⟩ => ?_⟩
  obtain ⟨k, -, hk, hlk⟩ := exists_getElem?_of_mem hl hm
  obtain rfl : n = k := by omega
  exact hlk

theorem getElem?_table_at {a : Nat} (ha : base ≤ a) : l[a - base]? = some r ↔ r ∈ l ∧ r.addr = a := by
  rw [getElem?_table hl, Nat.add_sub_cancel' ha]

end

/-! ### The tables of rule R62 -/

theorem oscRegs_addr (i : Fin 3) :
    (oscRegs.map (Reg.osc i)).map Reg.addr = (List.range 9).map (0x0000 + 0x20 * i.val + ·) := by
  revert i; decide

theorem envRegs_addr : (envRegs.map Reg.env).map Reg.addr = (List.range 8).map (0x0100 + ·) := by decide

theorem fltRegs_addr : (fltRegs.map Reg.flt).map Reg.addr = (List.range 8).map (0x0300 + ·) := by decide

theorem master_addr : [Reg.master].map Reg.addr = (List.range 1).map (0x0400 + ·) := by decide

theorem chanRegs_addr (c : Fin 4) :
    (chanRegs.map (Reg.chan c)).map Reg.addr = (List.range 11).map (0x0500 + 0x10 * c.val + ·) := by
  revert c; decide

theorem timeRegs_addr : [Reg.time, .frameCount, .status, .heldCount].map Reg.addr =
    (List.range 4).map (0x0600 + ·) := by decide

theorem cfgRegs_addr : [Reg.cfgFs, .cfgNch, .cfgMaxNotes].map Reg.addr = (List.range 3).map (0x0700 + ·) := by
  decide

/-! ### The blocks of the address map -/

/-- The block of 0x100 addresses a register of rule R62 is in. -/
def Reg.block : Reg → Nat
  | .osc _ _ | .gain _ _ => 0
  | .env _ => 1
  | .route _ => 2
  | .flt _ => 3
  | .master => 4
  | .chan _ _ => 5
  | .time | .frameCount | .status | .heldCount | .held _ => 6
  | .cfgFs | .cfgNch | .cfgMaxNotes => 7

theorem mem_envRegs (x : EnvReg) : x ∈ envRegs := by cases x <;> decide
theorem mem_fltRegs (x : FltReg) : x ∈ fltRegs := by cases x <;> decide

theorem mem_env_iff {r : Reg} : r ∈ envRegs.map Reg.env ↔ r.block = 1 := by
  cases r <;> simp [Reg.block, mem_envRegs]

theorem mem_flt_iff {r : Reg} : r ∈ fltRegs.map Reg.flt ↔ r.block = 3 := by
  cases r <;> simp [Reg.block, mem_fltRegs]

theorem mem_master_iff {r : Reg} : r ∈ [Reg.master] ↔ r.block = 4 := by
  cases r <;> simp [Reg.block]

theorem mem_time_iff (p : Params) {r : Reg} : r ∈ [Reg.time, .frameCount, .status, .heldCount] ↔
    r.block = 6 ∧ Claims.Exists p r ∧ r.addr < 0x610 := by
  cases r <;> simp [Reg.block, Reg.addr, Claims.Exists]

theorem mem_cfg_iff {r : Reg} : r ∈ [Reg.cfgFs, .cfgNch, .cfgMaxNotes] ↔ r.block = 7 := by
  cases r <;> simp [Reg.block]

theorem oscReg_offset (i : Fin 3) (x : OscReg) : ∃ n < 9, (Reg.osc i x).addr = 0x0000 + 0x20 * i.val + n ∧
    (oscRegs.map (Reg.osc i))[n]? = some (.osc i x) :=
  exists_getElem?_of_mem (oscRegs_addr i) (List.mem_map_of_mem (by cases x <;> decide))

theorem chanReg_offset (c : Fin 4) (x : ChanReg) : ∃ n < 11, (Reg.chan c x).addr = 0x0500 + 0x10 * c.val + n ∧
    (chanRegs.map (Reg.chan c))[n]? = some (.chan c x) :=
  exists_getElem?_of_mem (chanRegs_addr c) (List.mem_map_of_mem (by cases x <;> decide))

/-- Only channels and held-note slots can be missing from a block (rule R62). -/
theorem exists_of_block {p : Params} {r : Reg} (h5 : r.block ≠ 5) (h6 : r.block ≠ 6) : Claims.Exists p r := by
  cases r with
  | chan => exact absurd rfl h5
  | held => exact absurd rfl h6
  | _ => trivial

/-- The block of a register that exists is the one its address falls in. -/
theorem addr_div {p : Params} {r : Reg} (hp : p.maxNotes ≤ 16) (hr : Claims.Exists p r) :
    r.addr / 0x100 = r.block := by
  cases r with
  | osc i x =>
    obtain ⟨n, hlt, ha, -⟩ := oscReg_offset i x
    rw [ha, Reg.block]
    omega
  | gain i k => rw [Reg.addr, Reg.block]; omega
  | env x => cases x <;> rfl
  | route k => rw [Reg.addr, Reg.block]; omega
  | flt x => cases x <;> rfl
  | chan c x =>
    obtain ⟨n, hlt, ha, -⟩ := chanReg_offset c x
    rw [ha, Reg.block]
    omega
  | held k =>
    have hk : k < p.maxNotes := hr
    rw [Reg.addr, Reg.block]
    omega
  | master | time | frameCount | status | heldCount | cfgFs | cfgNch | cfgMaxNotes => rfl

section

variable {p : Params} {a : Nat} {r : Reg}

theorem oscAt_eq_some : oscAt a = some r ↔ r.block = 0 ∧ r.addr = a := by
  simp only [oscAt, Option.bind_eq_bind, Option.bind_eq_some_iff, below_eq_some, ← List.getElem?_map]
  constructor
  · rintro ⟨i, hi, h⟩
    split at h
    · obtain ⟨hm, ha⟩ := (getElem?_table (oscRegs_addr i)).1 h
      obtain ⟨x, -, rfl⟩ := List.mem_map.1 hm
      exact ⟨rfl, by omega⟩
    · obtain ⟨k, hk, rfl⟩ := Option.map_eq_some_iff.1 h
      rw [below_eq_some] at hk
      exact ⟨rfl, by rw [Reg.addr]; omega⟩
  · rintro ⟨hb, rfl⟩
    cases r with
    | osc i x =>
      obtain ⟨n, hlt, ha, hl⟩ := oscReg_offset i x
      have hn : (Reg.osc i x).addr % 0x20 = n := by omega
      exact ⟨i, by omega, by rw [hn, if_pos (by omega), hl]⟩
    | gain i k =>
      have ha : (Reg.gain i k).addr = 0x0010 + 0x20 * i.val + k.val := rfl
      refine ⟨i, by omega, ?_⟩
      rw [if_neg (by omega), below_eq_some.2 (show _ = k.val by omega), Option.map_some]
    | _ => cases hb

theorem envAt_eq_some (ha : 0x100 ≤ a) :
    (envRegs[a - 0x100]?).map Reg.env = some r ↔ r.block = 1 ∧ r.addr = a := by
  rw [← List.getElem?_map, getElem?_table_at envRegs_addr ha, mem_env_iff]

theorem routeAt_eq_some (ha : 0x200 ≤ a) :
    (below 5 (a - 0x200)).map Reg.route = some r ↔ r.block = 2 ∧ r.addr = a := by
  simp only [Option.map_eq_some_iff, below_eq_some]
  constructor
  · rintro ⟨k, hk, rfl⟩
    exact ⟨rfl, by rw [Reg.addr]; omega⟩
  · rintro ⟨hb, rfl⟩
    cases r with
    | route k => exact ⟨k, by rw [Reg.addr]; omega, rfl⟩
    | _ => cases hb

theorem fltAt_eq_some (ha : 0x300 ≤ a) :
    (fltRegs[a - 0x300]?).map Reg.flt = some r ↔ r.block = 3 ∧ r.addr = a := by
  rw [← List.getElem?_map, getElem?_table_at fltRegs_addr ha, mem_flt_iff]

theorem masterAt_eq_some (ha : 0x400 ≤ a) : [Reg.master][a - 0x400]? = some r ↔ r.block = 4 ∧ r.addr = a := by
  rw [getElem?_table_at master_addr ha, mem_master_iff]

theorem chanAt_eq_some (ha : 0x500 ≤ a) :
    chanAt p a = some r ↔ r.block = 5 ∧ Claims.Exists p r ∧ r.addr = a := by
  simp only [chanAt, Option.bind_eq_bind, Option.bind_eq_some_iff, below_eq_some, ← List.getElem?_map]
  constructor
  · rintro ⟨c, hc, h⟩
    split at h
    next hlive =>
      obtain ⟨hm, hx⟩ := (getElem?_table (chanRegs_addr c)).1 h
      obtain ⟨x, -, rfl⟩ := List.mem_map.1 hm
      exact ⟨rfl, hlive, by omega⟩
    next => cases h
  · rintro ⟨hb, hr, hra⟩
    cases r with
    | chan c x =>
      obtain ⟨n, hlt, hx, hl⟩ := chanReg_offset c x
      have hn : (a - 0x500) % 0x10 = n := by omega
      have hlive : c.val < p.nch := hr
      exact ⟨c, by omega, by rw [if_pos hlive, hn, hl]⟩
    | _ => cases hb

theorem timeAt_eq_some (ha : 0x600 ≤ a) :
    timeAt p a = some r ↔ r.block = 6 ∧ Claims.Exists p r ∧ r.addr = a := by
  unfold timeAt
  split
  next hlt =>
    rw [getElem?_table_at timeRegs_addr ha, mem_time_iff p, and_assoc, and_assoc,
      and_iff_right_of_imp fun h : r.addr = a => h ▸ hlt]
  next hge =>
    constructor
    · intro h
      split at h
      next hk =>
        cases h
        exact ⟨rfl, hk, by rw [Reg.addr]; omega⟩
      next => cases h
    · rintro ⟨hb, hr, rfl⟩
      cases r with
      | held k =>
        have hk : k < p.maxNotes := hr
        have haddr : (Reg.held k).addr - 0x610 = k := by rw [Reg.addr]; omega
        rw [haddr, if_pos hk]
      | time | frameCount | status | heldCount => exact absurd (by decide) hge
      | _ => cases hb

theorem cfgAt_eq_some (ha : 0x700 ≤ a) :
    [Reg.cfgFs, .cfgNch, .cfgMaxNotes][a - 0x700]? = some r ↔ r.block = 7 ∧ r.addr = a := by
  rw [getElem?_table_at cfgRegs_addr ha, mem_cfg_iff]

end

/-- The address map finds the registers that exist, each at its address and nowhere else: a register that exists is
in the block its address falls in, so the look-up of that block finds it and no other one can. -/
theorem regAt_eq_some {p : Params} {a : BitVec 16} {r : Reg} (hp : p.maxNotes ≤ 16) :
    regAt p a = some r ↔ Claims.Exists p r ∧ r.addr = a.toNat := by
  have hexists : r.block ≠ 5 → r.block ≠ 6 → Claims.Exists p r := exists_of_block
  have hblock : Claims.Exists p r → r.addr / 0x100 = r.block := addr_div hp
  have hlast : r.block ≤ 7 := by cases r <;> simp [Reg.block]
  simp only [regAt]
  split
  next => rw [oscAt_eq_some]; grind
  split
  next => rw [envAt_eq_some (by omega)]; grind
  split
  next => rw [routeAt_eq_some (by omega)]; grind
  split
  next => rw [fltAt_eq_some (by omega)]; grind
  split
  next => rw [masterAt_eq_some (by omega)]; grind
  split
  next => rw [chanAt_eq_some (by omega)]; grind
  split
  next => rw [timeAt_eq_some (by omega)]; grind
  next => rw [cfgAt_eq_some (by omega)]; grind

/-- Settles O39: an address falls in the block of the register it names, and each block's look-up is a table of
consecutive registers. -/
theorem addressMapNamesEachRegisterOnce : Obligations.AddressMapNamesEachRegisterOnce := by
  exact ⟨fun _ _ _ hp => (regAt_eq_some hp.maxNotes_le).trans (and_congr_right' eq_comm),
    fun i => ⟨oscRegs_addr i, fun _ => rfl⟩, envRegs_addr, fun _ => rfl, fltRegs_addr, rfl, chanRegs_addr,
    timeRegs_addr, fun _ => rfl, cfgRegs_addr⟩

/-! ### READ (rules R71, R264) -/

/-- A command whose fields are refused raises BAD_FIELD and does nothing else, whatever its format. -/
theorem exec_refused {i : Instr} (h : i.fieldsOk = false) (s : State) : exec i s = .next (raise .badField s) := by
  obtain ⟨r, hr, hsome⟩ := exec_format i s
  obtain rfl : r = none := by simpa [h] using hsome
  rw [hr]
  cases i.data with
  | none => rfl
  | some d => rfl

theorem isH_of_opcodeMap {op : BitVec 8} {mk : Fields → Instr} (h : opcodeMap op = some (.h mk)) : IsH op mk :=
  fun a b imm => decode_h h ⟨a, b, imm⟩

theorem exec_read {f : Fields} (s : State) (ha : f.a = 0#4) (hb : f.b = 0#4) :
    exec (.read f) s = .next (readRegister f.imm s) := by
  simp [exec, execRead, ha, hb]

theorem readRegister_mapped {a : BitVec 16} {s : State} {r : Reg} (h : regAt s.cfg a = some r) :
    readRegister a s = emitResponse (regImage s r) s := by
  simp [readRegister, readAt, h]

theorem readRegister_unmapped {a : BitVec 16} {s : State} (h : regAt s.cfg a = none) :
    readRegister a s = emitResponse 0#64 (raise .badAddr s) := by
  simp [readRegister, readAt, h]

/-- Settles O37: the address map finds the register, and READ emits its image. -/
theorem readAnswersTheRegister : Obligations.ReadAnswersTheRegister := by
  refine ⟨isH_of_opcodeMap rfl, fun s f r ha hb hr hp haddr => ?_, fun s f h => ?_⟩
  · rw [exec_read s ha hb, readRegister_mapped ((regAt_eq_some hp.maxNotes_le).2 ⟨hr, haddr.symm⟩)]
    rfl
  · refine exec_refused ?_ s
    rcases h with h | h <;> simp [Instr.fieldsOk, Fields.immUpTo, h]

/-- Settles O38: the address map finds no register, since it would be one at that address. -/
theorem readOfUnmappedAddressAnswersZero : Obligations.ReadOfUnmappedAddressAnswersZero := by
  intro s f ha hb hp hnone
  have hmap : regAt s.cfg f.imm = none := by
    refine Option.eq_none_iff_forall_ne_some.2 fun r hr => ?_
    obtain ⟨hex, haddr⟩ := (regAt_eq_some hp.maxNotes_le).1 hr
    exact hnone r hex haddr.symm
  rw [exec_read s ha hb, readRegister_unmapped hmap]
  rfl

end Sys2Proof.Machine
end

section
/-! PROOFS. The image of every register, by its type (rules R62, R63). -/

namespace Sys2Proof.Machine

open Sys2Proof.Claims

/-! ### Images by their type (rule R63) -/

theorem toNat_unsignedImage {n : Nat} (h : n < 2 ^ 64) : (unsignedImage n).toNat = n := by
  rw [unsignedImage, BitVec.toNat_ofNat, Nat.mod_eq_of_lt h]

theorem toNat_unsignedImage_bool (b : Bool) : (unsignedImage b.toNat).toNat = b.toNat := by
  cases b <;> rfl

/-- The bits of the envelope flags (rules R32, R62). -/
theorem getLsbD_flags (a b : Bool) (k : Nat) : (unsignedImage (a.toNat + 2 * b.toNat)).getLsbD k =
    if k = 0 then a else if k = 1 then b else false := by
  match k with
  | 0 => cases a <;> cases b <;> rfl
  | 1 => cases a <;> cases b <;> rfl
  | k + 2 =>
    have hlt : a.toNat + 2 * b.toNat < 2 ^ (k + 2) := by
      have := a.toNat_le
      have := b.toNat_le
      have := Nat.pow_le_pow_right (n := 2) (by decide) (Nat.le_add_left 2 k)
      omega
    rw [unsignedImage, BitVec.getLsbD_ofNat, Nat.testBit_lt_two_pow hlt, Bool.and_false]
    rfl

theorem toNat_waveImage (w : Wave) : (unsignedImage (waveCode w)).toNat = waveCode w := by
  cases w <;> rfl

theorem toNat_polesImage (p : Poles) : (unsignedImage (polesCode p)).toNat = polesCode p := by
  cases p <;> rfl

theorem toNat_modeImage (m : FltMode) : (unsignedImage (modeCode m)).toNat = modeCode m := by
  cases m <;> rfl

theorem toInt_octaveImage {o : Osc} (h : OscOk o) : (oscImage o .octave).toInt = o.octave := by
  have hlo := h.octave_lo
  have hhi := h.octave_hi
  exact BitVec.toInt_ofInt_eq_self (by decide) (by omega) (by omega)

theorem toNat_heldImage {s : State} {k : Nat} {n : BitVec 7} (h : s.held[k]? = some n) :
    (regImage s (.held k)).toNat = n.toNat := by
  rw [regImage, h]
  exact BitVec.toNat_setWidth_of_le (by decide)

theorem heldImage_empty {s : State} {k : Nat} (h : s.held.length ≤ k) :
    regImage s (.held k) = 0xFFFFFFFFFFFFFFFF#64 := by
  rw [regImage, List.getElem?_eq_none h]
  rfl

/-- Settles O40: a Num's image is its bits by definition, and every other value is in the range of its image; the
invariant bounds the octave, the held notes and the parameters. -/
theorem registerImagesFollowTheirType : Obligations.RegisterImagesFollowTheirType := by
  intro s hs
  have hnch := hs.params.nch_le
  have hnotes := hs.params.maxNotes_le
  have hheld := hs.held.capacity
  have hcrush := s.shp.crush.isLt
  exact ⟨fun i => ⟨toNat_waveImage _, rfl, rfl, rfl, rfl, toInt_octaveImage (hs.osc i), toNat_unsignedImage_bool _,
      toNat_unsignedImage_bool _, rfl, fun _ => rfl⟩,
    rfl, rfl, rfl, rfl, getLsbD_flags _ _, rfl, rfl, rfl,
    fun _ => BitVec.toNat_setWidth_of_le (by decide),
    rfl, rfl, toNat_polesImage _, toNat_modeImage _,
    toNat_unsignedImage_bool _, rfl, rfl, toNat_unsignedImage (by omega),
    rfl,
    fun _ => ⟨rfl, rfl, rfl, rfl, rfl, rfl, rfl, rfl, rfl, rfl, BitVec.toInt_signExtend_of_le (by decide)⟩,
    rfl, rfl, BitVec.toNat_setWidth_of_le (by decide), toNat_unsignedImage (by omega),
    fun _ _ => toNat_heldImage, fun _ => heldImage_empty,
    rfl, toNat_unsignedImage (by omega), toNat_unsignedImage (by omega)⟩

end Sys2Proof.Machine
end

section
/-! PROOFS. The encoding: the opcode map has a row for each legal opcode alone, decoding and encoding are inverse, an
illegal header is one word and a format-HD command three (rules R80 to R82, R85, R86, R92). -/

namespace Sys2Proof.Machine

open Sys2Proof.Claims

/-! ### The rows of the opcode map (rules R85, R86) -/

/-- The opcodes without a row are those of rule R86. -/
theorem opcodeMap_eq_none {op : BitVec 8} : opcodeMap op = none ↔ illegalOp op.toNat := by
  unfold opcodeMap illegalOp
  split
  case h_33 => grind
  all_goals simp [*]

/-- The commands a row makes have the opcode, the fields and, in format HD, the data operand they are made of. -/
def RowMakes (op : BitVec 8) : Format → Prop
  | .h mk => ∀ f, (mk f).parts = (op, f, none)
  | .hd mk => ∀ f d, (mk f d).parts = (op, f, some d)

/-- Each row of the opcode map stands under the opcode of its commands (`opcodeMap_parts` is the converse). -/
theorem opcodeMap_rowMakes {op : BitVec 8} {row : Format} (h : opcodeMap op = some row) : RowMakes op row := by
  unfold opcodeMap at h
  split at h
  case h_33 => cases h
  all_goals
    cases h
    simp [RowMakes, Instr.parts, ← BitVec.toNat_inj, *]

/-! ### Decoding and encoding are inverse (rules R80 to R82, R85, R92) -/

/-- A stream decodes to a command where it begins with the command's words, and nowhere else. -/
theorem decode_eq_ok {ws : List Word} {i : Instr} : decode ws = .ok i ↔ encode i <+: ws := by
  refine ⟨fun h => ?_, fun ⟨rest, hws⟩ => hws ▸ decode_encode i rest⟩
  rcases ws with _ | ⟨hw, rest⟩
  · cases h
  rcases hop : opcodeMap (opField hw) with _ | mk | mk
  · simp [decode, hop] at h
  · obtain rfl : mk (fieldsOf hw) = i := by simpa [decode, hop] using h
    simp [encode, opcodeMap_rowMakes hop (fieldsOf hw)]
  · rcases rest with _ | ⟨w1, _ | ⟨w2, rest⟩⟩
    · simp [decode, hop] at h
    · simp [decode, hop] at h
    · obtain rfl : mk (fieldsOf hw) (dataOf w1 w2) = i := by simpa [decode, hop] using h
      simp [encode, opcodeMap_rowMakes hop (fieldsOf hw) (dataOf w1 w2)]

theorem words_eq_one_or_three (i : Instr) : i.words = 1 ∨ i.words = 3 := by
  unfold Instr.words encode
  cases i.parts.2.2 with
  | none => exact .inl rfl
  | some d => exact .inr rfl

/-- Settles O1: decoding is encoding read backwards, on any stream. -/
theorem decodeAndEncodeAgree : Obligations.DecodeAndEncodeAgree := by
  refine ⟨decode_encode, fun ws i h => ?_⟩
  have hpre := decode_eq_ok.1 h
  exact ⟨List.prefix_iff_eq_take.1 hpre, words_eq_one_or_three i, hpre.length_le⟩

/-! ### Illegal opcodes (rule R86) -/

theorem decode_eq_illegal {h : Word} {rest : List Word} :
    decode (h :: rest) = .error (.illegalOp (opField h)) ↔ illegalOp (opField h).toNat := by
  rw [← opcodeMap_eq_none]
  rcases hop : opcodeMap (opField h) with _ | mk | mk
  · simp [decode, hop]
  · simp [decode, hop]
  · rcases rest with _ | ⟨w1, _ | ⟨w2, rest⟩⟩ <;> simp [decode, hop]

/-- Settles O2: the opcodes without a row are those of rule R86, and the header of one is fetched alone. -/
theorem illegalOpcodesRaiseAndConsumeOneWord : Obligations.IllegalOpcodesRaiseAndConsumeOneWord := by
  refine ⟨fun _ _ => decode_eq_illegal, fun s h rest hin hop => ?_⟩
  have hdec : decode (leadingWords s.input) = .error (.illegalOp (opField h)) := by
    rw [hin]
    exact decode_eq_illegal.2 hop
  have hfetch : fetch s.input = .illegal rest := by
    rw [fetch, hdec, hin]
    rfl
  rw [step, hfetch]
  rfl

/-! ### Data words (rule R82) -/

theorem data_eq_parts (i : Instr) : i.data = i.parts.2.2 := by cases i <;> rfl

/-- A format-HD header and any two words are one command's words, with the two words as its data operand. -/
theorem exists_encode_eq {h : Word} (hop : (opField h).toNat ∈ hdOps) (w1 w2 : Word) :
    ∃ i : Instr, encode i = [h, w1, w2] ∧ i.data = some (dataOf w1 w2) := by
  obtain ⟨mk, hmk⟩ := opcodeMap_hdOps hop
  have hparts := opcodeMap_rowMakes hmk (fieldsOf h) (dataOf w1 w2)
  exact ⟨mk (fieldsOf h) (dataOf w1 w2), by simp [encode, hparts], by rw [data_eq_parts, hparts]⟩

/-- Settles O11: the three words are one command's encoding, so a step executes it on the input past them, and no
command writes the input. -/
theorem dataWordsAreConsumedWhateverTheOutcome : Obligations.DataWordsAreConsumedWhateverTheOutcome := by
  intro s t h w1 w2 rest hop hin hstep
  obtain ⟨i, henc, hdata⟩ := exists_encode_eq hop w1 w2
  have hexec : step s = exec i { s with input := rest } :=
    stepExecutesTheDecodedCommand.2 s i rest (by rw [henc, hin]; rfl)
  have ht : exec i { s with input := rest } = .next t := hexec ▸ hstep
  refine ⟨(exec_effect ht).extends.input, i, decode_eq_ok.2 (henc ▸ List.prefix_rfl), hdata, hexec, ?_⟩
  intro hfields hinf
  have hbad : i.dataOk = false := by rw [Instr.dataOk, hdata]; exact hinf
  rcases exec_cases ht with ⟨hf, -⟩ | ⟨-, -, rfl⟩ | hok
  · simp [hfields] at hf
  · rfl
  · simp [Instr.wellFormed, hbad] at hok

/-! ### Words written out from the spec (rules R80 to R82, R85) -/

/-- Settles O3: the decoder computes each command from its words. -/
theorem specWordsDecode : Obligations.SpecWordsDecode := by
  unfold Obligations.SpecWordsDecode
  decide

end Sys2Proof.Machine
end

section
/-! PROOFS. The oscillator setters: the words each decodes from, its next state, and its refused operands (rules R110
to R119, R284, R285). -/

namespace Sys2Proof.Machine

open Sys2Proof.Claims

/-! ### Format HD and refused fields, for any command (rules R80, R82, R283, R284) -/

theorem isHD_of_opcodeMap {op : BitVec 8} {mk : Fields → F64 → Instr} (h : opcodeMap op = some (.hd mk)) :
    IsHD op mk :=
  fun a b imm => decode_hd h ⟨a, b, imm⟩

/-- A command with accepted fields and a data operand that is not finite raises NONFINITE and does nothing else. -/
theorem exec_nonfinite {i : Instr} (hf : i.fieldsOk = true) (hd : i.dataOk = false) (s : State) :
    exec i s = .next (raise .nonfinite s) := by
  obtain ⟨t, ht⟩ := exec_answers i s
  rw [ht]
  rcases exec_cases ht with ⟨hf', -⟩ | ⟨-, -, rfl⟩ | hok
  · simp [hf] at hf'
  · rfl
  · simp [Instr.wellFormed, hd] at hok

section

variable {f : Fields}

theorem oscOnly_eq_true : f.oscOnly = true ↔ f.a.toNat ≤ 2 ∧ f.b = 0#4 ∧ f.imm = 0#16 := by
  simp [Fields.oscOnly, and_assoc]

theorem oscOnly_eq_false : f.oscOnly = false ↔ 2 < f.a.toNat ∨ f.b ≠ 0#4 ∨ f.imm ≠ 0#16 := by
  simp only [Fields.oscOnly, Bool.and_eq_false_iff, decide_eq_false_iff_not, not_le, beq_eq_false_iff_ne, or_assoc]
  rfl

theorem oscImm_eq_false {n : Nat} : f.oscImm n = false ↔ 2 < f.a.toNat ∨ f.b ≠ 0#4 ∨ n < f.imm.toNat := by
  simp only [Fields.oscImm, Bool.and_eq_false_iff, decide_eq_false_iff_not, not_le, beq_eq_false_iff_ne, or_assoc]
  rfl

end

/-! ### The shared shapes of oscillator setters -/

/-- A command that is `setOscNum` of `upd` is a setter of Num registers. -/
theorem oscNumSetter_of_exec {op : BitVec 8} {mk : Fields → F64 → Instr} {upd : F64 → Osc → Osc}
    (hop : opcodeMap op = some (.hd mk)) (hexec : ∀ f d s, exec (mk f d) s = setOscNum f d (upd d) s)
    (hfields : ∀ f d, (mk f d).fieldsOk = f.oscOnly) (hdata : ∀ f d, (mk f d).data = some d) :
    OscNumSetter op mk upd := by
  refine ⟨isHD_of_opcodeMap hop, fun s f i d ha hb himm hd => ?_, fun s f d h => ?_, fun s f d ha hb himm hd => ?_⟩
  · rw [hexec]
    exact setOscNum_accepted (upd d) s ha hb himm hd
  · exact exec_refused ((hfields f d).trans (oscOnly_eq_false.2 h)) s
  · refine exec_nonfinite ((hfields f d).trans (oscOnly_eq_true.2 ⟨ha, hb, himm⟩)) ?_ s
    rw [Instr.dataOk, hdata]
    exact hd

/-- A command that is `setOscFlag` of `upd` is a setter of one flag. -/
theorem oscFlagSetter_of_exec {op : BitVec 8} {mk : Fields → Instr} {upd : Bool → Osc → Osc}
    (hop : opcodeMap op = some (.h mk)) (hexec : ∀ f s, exec (mk f) s = setOscFlag f upd s)
    (hfields : ∀ f, (mk f).fieldsOk = f.oscImm 1) : OscFlagSetter op mk upd := by
  refine ⟨isH_of_opcodeMap hop, fun s f i v ha hb himm => ?_, fun s f h => ?_⟩
  · rw [hexec]
    exact setOscFlag_accepted upd s ha hb himm
  · exact exec_refused ((hfields f).trans (oscImm_eq_false.2 h)) s

/-- Settles O19: all five are `setOscNum` of their register update. -/
theorem oscNumSettersWriteTheirRegisters : Obligations.OscNumSettersWriteTheirRegisters := by
  refine ⟨?_, ?_, ?_, ?_, ?_⟩
  all_goals exact oscNumSetter_of_exec rfl (fun _ _ _ => rfl) (fun _ _ => rfl) (fun _ _ => rfl)

/-- Settles O22: both are `setOscFlag` of their register update. -/
theorem oscFlagSetters : Obligations.OscFlagSetters := by
  refine ⟨?_, ?_⟩
  all_goals exact oscFlagSetter_of_exec rfl (fun _ _ => rfl) (fun _ => rfl)

/-! ### OSC_WAVE, OSC_OCTAVE and OSC_GAIN (rules R110, R112, R115, R285) -/

section

variable {f : Fields} {i : Fin 3} (s : State) (ha : f.a.toNat = i.val)

include ha

theorem exec_oscWave {w : Wave} (hb : f.b = 0#4) (himm : f.imm.toNat = waveCode w) :
    exec (.oscWave f) s = .next (s.updOsc i fun o => { o with wave := w }) := by
  simp [exec, execOscWave, oscForm_eq_some.2 ha, hb, kindForm_eq_some.2 himm]

theorem exec_oscOctave (hb : f.b = 0#4) :
    exec (.oscOctave f) s = .next (s.updOsc i fun o => { o with octave := octaveForm f.imm }) := by
  simp [exec, execOscOctave, oscForm_eq_some.2 ha, hb]

theorem exec_oscGain {d : F64} (himm : f.imm = 0#16) (hd : d.isFinite = true) :
    exec (.oscGain f d) s = .next (s.updOsc i fun o => { o with gain := o.gain.set (chForm f.b) d }) := by
  simp [exec, execOscGain, oscForm_eq_some.2 ha, himm, commandD_some_finite, hd]

end

/-- Settles O18: the immediate's accepted values are the codes of the waveforms. -/
theorem oscWaveSetsTheWaveform : Obligations.OscWaveSetsTheWaveform :=
  ⟨isH_of_opcodeMap rfl, fun s _ _ _ ha hb himm => exec_oscWave s ha hb himm,
    fun s f h => exec_refused (i := .oscWave f) (oscImm_eq_false.2 h) s⟩

/-- Settles O21: the octave written is the clamped immediate, and no immediate is refused. -/
theorem oscOctaveClamps : Obligations.OscOctaveClamps := by
  refine ⟨isH_of_opcodeMap rfl, fun s f i ha hb => ⟨octaveForm f.imm, exec_oscOctave s ha hb, ?_⟩, fun s f h => ?_⟩
  · unfold octaveForm
    omega
  · exact exec_refused (i := .oscOctave f) (oscImm_eq_false.2 (h.imp_right .inl)) s

/-- Settles O20: the channel written is the clamped B, and no B is refused. -/
theorem oscGainClampsTheChannel : Obligations.OscGainClampsTheChannel := by
  refine ⟨isHD_of_opcodeMap rfl, fun s f i k d ha himm hk hd => ?_, fun s f d h => ?_, fun s f d ha himm hd => ?_⟩
  · obtain rfl : k = chForm f.b := Fin.ext hk
    exact exec_oscGain s ha himm hd
  · refine exec_refused ?_ s
    rcases h with h | h
    · simp [Instr.fieldsOk, h]
    · simp [Instr.fieldsOk, h]
  · exact exec_nonfinite (i := .oscGain f d) (by simp [Instr.fieldsOk, ha, himm]) hd s

end Sys2Proof.Machine
end

section
/-! PROOFS. The waveforms by their formulas, the draws they consume, and the sum over the held notes (rules R100 to
R106, R125, R231). -/

namespace Sys2Proof.F64

/-! ### Constants as bit patterns (rule R9) -/

theorem halfPi_eq : halfPi = ⟨0x3FF921FB54442D18#64⟩ := by decide +kernel

theorem neg_halfPi_eq : neg halfPi = ⟨0xBFF921FB54442D18#64⟩ := by rw [halfPi_eq]; decide

/-! ### Zeros and NaNs compare below and above nothing (rule R7) -/

section

variable {a b : F64}

theorem lt_asymm (h : lt a b = true) : lt b a = false := by
  obtain ⟨-, -, hab⟩ := lt_iff.1 h
  rw [Bool.eq_false_iff]
  intro hba
  obtain ⟨-, -, hba⟩ := lt_iff.1 hba
  omega

/-- A zero of either sign, and a NaN, is on neither side of 0.0. -/
theorem not_lt_zero_of_isZero_or_isNaN (h : isZero a = true ∨ isNaN a = true) :
    lt zero a = false ∧ lt a zero = false := by
  rcases h with h | h
  · have hu := isZero_iff.1 h
    simp [lt, hu]
  · simp [lt, h]

end

end Sys2Proof.F64

namespace Sys2Proof.Machine

open F64 Sys2Proof.Claims

/-! ### The waveforms (rules R101 to R105) -/

section

variable {tie : SqTie} {v : F64}

theorem squareOf_pos (h : lt zero v = true) : squareOf tie v = one := by
  simp [squareOf, h]

theorem squareOf_neg (h : lt v zero = true) : squareOf tie v = negOne := by
  simp [squareOf, h, lt_asymm h]

theorem squareOf_tie (h : isZero v = true ∨ isNaN v = true) : squareOf tie v = tieValue tie := by
  obtain ⟨hpos, hneg⟩ := not_lt_zero_of_isZero_or_isNaN h
  simp [squareOf, hpos, hneg]

end

theorem sawOf_zero {f : F64} (t : F64) (h : eq f zero = true) : sawOf f t = neg halfPi := by
  simp [sawOf, h]

theorem sawOf_nonzero {f : F64} (t : F64) (h : eq f zero = false) :
    sawOf f t = sub (mul (mul f twoPi) (fmod t (div one f))) halfPi := by
  simp [sawOf, h]

section

variable (F : Fns) (tie : SqTie) {o : Osc} (f t : F64) (k : Nat)

theorem rawWave_sine (h : o.wave = .sine) : rawWave F tie o f t k = (sineVal F f t o.fm, k) := by
  simp [rawWave, h]

theorem rawWave_square (h : o.wave = .square) :
    rawWave F tie o f t k = (squareOf tie (sineVal F f t o.fm), k) := by
  simp [rawWave, h]

theorem rawWave_saw (h : o.wave = .saw) : rawWave F tie o f t k = (sawOf (add f o.fm) t, k) := by
  simp [rawWave, h]

theorem rawWave_triangle (h : o.wave = .triangle) :
    rawWave F tie o f t k = (F.fasin (sineVal F f t o.fm), k) := by
  simp [rawWave, h]

theorem rawWave_noise (h : o.wave = .noise) : rawWave F tie o f t k = (F.draw k, k + 1) := by
  simp [rawWave, h]

/-- Without the noise waveform no draw is consumed, and the value is the same for any draw stream. -/
theorem rawWave_without_noise (h : o.wave ≠ .noise) (d : Nat → F64) (k' : Nat) :
    (rawWave F tie o f t k).2 = k ∧
      (rawWave { F with draw := d } tie o f t k').1 = (rawWave F tie o f t k).1 := by
  unfold rawWave
  cases hw : o.wave with
  | noise => exact absurd hw h
  | sine | square | saw | triangle => exact ⟨rfl, rfl⟩

end

/-- Settles O52: one equation per waveform, with the sine value and the constants written out. -/
theorem rawWaveformsFollowTheirFormulas : Obligations.RawWaveformsFollowTheirFormulas := by
  rintro F tie o f t v g k hv rfl
  have hsine : sineVal F f t o.fm = v := by rw [hv, ← twoPi_eq]; rfl
  rw [← twoPi_eq, ← halfPi_eq, ← neg_halfPi_eq]
  refine ⟨fun hw => ?_, fun hw => ?_, fun hw => ?_, fun hw => ?_, fun hw => ?_, fun c => rfl⟩
  · rw [rawWave_sine F tie f t k hw, hsine]
  · rw [rawWave_square F tie f t k hw, hsine]
    exact ⟨squareOf_pos, squareOf_neg, squareOf_tie⟩
  · rw [rawWave_saw F tie f t k hw]
    exact ⟨sawOf_zero t, sawOf_nonzero t⟩
  · rw [rawWave_triangle F tie f t k hw, hsine]
  · rw [rawWave_noise F tie f t k hw]

/-- Settles O53: `play` scales the raw value and consumes the raw value's draws. -/
theorem onlyNoiseConsumesDraws : Obligations.OnlyNoiseConsumesDraws := by
  intro F tie o f t c k
  refine ⟨fun hw => ?_, fun hw => ⟨?_, fun d k' => ?_⟩⟩
  · rw [play, rawWave_noise F tie f t k hw]
  · exact (rawWave_without_noise F tie f t k hw F.draw k).1
  · rw [play, play, (rawWave_without_noise F tie f t k hw d k').2]

/-! ### Note frequencies (rule R125) -/

section

variable {p : Params} {o : Osc} {n : BitVec 7}

theorem noteFreq_inside {k : Nat} (hk : (k : Int) = scaleIndex o n) (h : k ≤ 107) :
    noteFreq p o n = p.scale[k]? := by
  rw [noteFreq, ← hk, if_pos (by omega), Int.toNat_natCast]

theorem noteFreq_outside (h : scaleIndex o n < 0 ∨ 107 < scaleIndex o n) : noteFreq p o n = none := by
  rw [noteFreq, if_neg (by omega)]

end

/-! ### The sum over the held notes (rule R231) -/

/-- What one held note makes of the sum and the draws so far: a skipped note leaves them. -/
def joinNote (F : Fns) (x : Ctx) (o : Osc) (a : F64 × Nat) (n : BitVec 7) : F64 × Nat :=
  match noteFreq x.cfg o n with
  | some f =>
    (add a.1 (mul x.e (play F x.cfg.sqTie o f x.t x.c a.2).1), (play F x.cfg.sqTie o f x.t x.c a.2).2)
  | none => a

section

variable (F : Fns) (x : Ctx) (o : Osc) {n : BitVec 7}

theorem joinNote_skipped (h : noteFreq x.cfg o n = none) (a : F64 × Nat) : joinNote F x o a n = a := by
  simp [joinNote, h]

theorem joinNote_played {f : F64} (h : noteFreq x.cfg o n = some f) (a : F64 × Nat) :
    joinNote F x o a n =
      (add a.1 (mul x.e (play F x.cfg.sqTie o f x.t x.c a.2).1), (play F x.cfg.sqTie o f x.t x.c a.2).2) := by
  simp [joinNote, h]

/-- The held notes join the sum one after the other, from 0.0. -/
theorem noteSum_eq_foldl (held : List (BitVec 7)) (k : Nat) :
    noteSum F { x with held := held } o k = held.foldl (joinNote F x o) (zero, k) := rfl

end

/-- Settles O46: the sum is a fold over the held notes, which splits at any note. -/
theorem heldNotesSumInOrderAndSkipOutOfRange : Obligations.HeldNotesSumInOrderAndSkipOutOfRange := by
  refine ⟨fun p o n => ⟨fun k => noteFreq_inside, noteFreq_outside⟩, fun F x o k before later n h => ?_,
    fun F x o k before n f h acc k' hsum => ?_, fun F x o k => rfl⟩
  · simp only [noteSum_eq_foldl, List.foldl_append, List.foldl_cons, joinNote_skipped F x o h]
  · rw [noteSum_eq_foldl] at hsum ⊢
    rw [List.foldl_append, hsum]
    exact joinNote_played F x o h (acc, k')

end Sys2Proof.Machine
end

section
/-! PROOFS. Rounding is monotone: the greater of two ratios is not rounded below the smaller one, nor a sum, a product
or a quotient of numbers from zero on (rule R8). -/

namespace Sys2Proof.F64

theorem mag_eq_units {x : F64} (h : 0 ≤ units x) : (mag x : Int) = units x := by
  rw [← units_natAbs, Int.natAbs_of_nonneg h]

theorem mag_le_mag {a b : F64} (ha : 0 ≤ units a) (h : units a ≤ units b) : mag a ≤ mag b := by
  rw [← Int.ofNat_le, mag_eq_units ha, mag_eq_units (ha.trans h)]
  exact h

theorem units_le_of_mag_le {a b : F64} (hb : 0 ≤ units b) (h : mag a ≤ mag b) : units a ≤ units b := by
  rw [← mag_eq_units hb]
  exact (units_le_mag a).1.trans (Int.ofNat_le.2 h)

/-- Of two ratios with one denominator the greater is not rounded below the smaller: each rounded value is nearest to
its own ratio. -/
theorem mag_roundRatio_le {neg₁ neg₂ : Bool} {n₁ n₂ den : Nat} (hden : 0 < den) (h : n₁ ≤ n₂)
    (hfin : isFinite (roundRatio neg₂ n₂ den) = true) :
    mag (roundRatio neg₁ n₁ den) ≤ mag (roundRatio neg₂ n₂ den) := by
  have h₂ : n₂ < (2 ^ 54 - 1) * 2 ^ 2044 * den := by
    rw [← not_le, ← roundRatio_isInf_iff neg₂ hden, isInf_of_finite hfin]
    decide
  have h₁ := h.trans_lt h₂
  rcases h.eq_or_lt with rfl | hlt
  · rw [mag_roundRatio neg₁ h₁, mag_roundRatio neg₂ h₁]
  · have hnear₁ := (roundRatio_nearest neg₁ h₁ hfin).1
    have hnear₂ := (roundRatio_nearest neg₂ h₂ (roundRatio_isFinite neg₁ h₁)).1
    refine Nat.le_of_mul_le_mul_right ?_ hden
    simp only [Int.abs_eq_natAbs] at hnear₁ hnear₂
    omega

theorem mag_ofNat_le {n m : Nat} (h : n ≤ m) (hfin : isFinite (F64.ofNat m) = true) :
    mag (F64.ofNat n) ≤ mag (F64.ofNat m) :=
  mag_roundRatio_le one_pos (Nat.mul_le_mul_right _ h) hfin

section

variable {a b c : F64} (ha : isFinite a = true) (hb : isFinite b = true) (hc : isFinite c = true)

include ha hb hc

theorem mag_div_le (h0 : isZero c = false) (h : mag a ≤ mag b) (hfin : isFinite (div b c) = true) :
    mag (div a c) ≤ mag (div b c) := by
  have hpos : 0 < mag c := Nat.pos_of_ne_zero (by simpa [isZero] using h0)
  rw [div_of_finite hb hc h0] at hfin ⊢
  rw [div_of_finite ha hc h0]
  exact mag_roundRatio_le hpos (Nat.mul_le_mul_right _ h) hfin

theorem mag_mul_le (h : mag a ≤ mag b) (hfin : isFinite (mul c b) = true) : mag (mul c a) ≤ mag (mul c b) := by
  rw [mul_of_finite hc hb] at hfin ⊢
  rw [mul_of_finite hc ha]
  exact mag_roundRatio_le (by decide +kernel) (Nat.mul_le_mul_left _ h) hfin

end

/-- A difference of finite values is its exact value's magnitude rounded, with some sign. -/
theorem exists_sub_eq_roundRatio {a b : F64} (ha : isFinite a = true) (hb : isFinite b = true) :
    ∃ neg, sub a b = roundRatio neg (units a - units b).natAbs 1 := by
  rw [sub, sum_of_finite ha (by simpa using hb), units_neg, ← Int.sub_eq_add_neg]
  split
  next h => exact ⟨_, by rw [zeroOf_eq_roundRatio, h]; rfl⟩
  next h => exact ⟨_, rfl⟩

/-- What is left of `c` falls as what is taken from it grows. -/
theorem mag_sub_le {a b c : F64} (ha : isFinite a = true) (hb : isFinite b = true) (hc : isFinite c = true)
    (h : units a ≤ units b) (hbc : units b ≤ units c) (hfin : isFinite (sub c a) = true) :
    mag (sub c b) ≤ mag (sub c a) := by
  obtain ⟨_, hca⟩ := exists_sub_eq_roundRatio hc ha
  obtain ⟨_, hcb⟩ := exists_sub_eq_roundRatio hc hb
  rw [hca] at hfin ⊢
  rw [hcb]
  exact mag_roundRatio_le one_pos (by omega) hfin

end Sys2Proof.F64
end

section
/-! PROOFS. The envelope by its phases (rules R140 to R143, R147): what the amplitude and the completion are in each,
and that the ramps are monotone. -/

namespace Sys2Proof.F64

open Sys2Proof.Claims

/-! ### Comparisons that exclude each other (rule R7) -/

theorem lt_eq_false_of_le {a b : F64} (h : le b a = true) : lt a b = false := by
  obtain ⟨-, -, hle⟩ := le_iff.1 h
  rw [Bool.eq_false_iff]
  intro hlt
  obtain ⟨-, -, hlt⟩ := lt_iff.1 hlt
  omega

/-! ### The unit range is ordered as its units are -/

section

variable {a b c : F64} (ha : Within a zero one) (hb : Within b zero one)

include ha hb

theorem unit_le (h : units a ≤ units b) : le a b = true :=
  le_iff.2 ⟨(within_iff.1 ha).2.1, (within_iff.1 hb).2.1, h⟩

theorem units_one_sub_le (h : units a ≤ units b) : units (sub one b) ≤ units (sub one a) := by
  obtain ⟨haf, -, -⟩ := unit_iff.1 ha
  obtain ⟨hbf, -, hb1⟩ := unit_iff.1 hb
  obtain ⟨hfin, h0, -⟩ := unit_iff.1 (unit_one_sub ha)
  exact units_le_of_mag_le h0 (mag_sub_le haf hbf isFinite_one h (by rwa [units_one]) hfin)

theorem units_mul_le (hc : Within c zero one) (h : units a ≤ units b) : units (mul c a) ≤ units (mul c b) := by
  obtain ⟨haf, ha0, -⟩ := unit_iff.1 ha
  obtain ⟨hbf, -, -⟩ := unit_iff.1 hb
  obtain ⟨hcf, -, -⟩ := unit_iff.1 hc
  obtain ⟨hfin, h0, -⟩ := unit_iff.1 (unit_mul hc hb)
  exact units_le_of_mag_le h0 (mag_mul_le haf hbf hcf (mag_le_mag ha0 h) hfin)

end

theorem units_div_le {a b c : F64} (ha : isFinite a = true) (hb : isFinite b = true) (hc : isFinite c = true)
    (hpos : 0 < units c) (ha0 : 0 ≤ units a) (h : units a ≤ units b) (hfin : isFinite (div b c) = true)
    (h0 : 0 ≤ units (div b c)) : units (div a c) ≤ units (div b c) :=
  units_le_of_mag_le h0 (mag_div_le ha hb hc (isZero_eq_false.2 hpos.ne') (mag_le_mag ha0 h) hfin)

theorem units_unit_div_le {a b c : F64} (ha : isFinite a = true) (hb : isFinite b = true) (hc : isFinite c = true)
    (ha0 : 0 ≤ units a) (h : units a ≤ units b) (hbc : units b < units c) : units (div a c) ≤ units (div b c) := by
  obtain ⟨hfin, h0, -⟩ := unit_iff.1 (unit_div hb hc (ha0.trans h) hbc)
  exact units_div_le ha hb hc (by omega) ha0 h hfin h0

end Sys2Proof.F64

namespace Sys2Proof.Machine

open F64 Sys2Proof.Claims

/-! ### The phase the registers make (rule R140) -/

section

variable {fs : F64} {v : Env} {n : BitVec 64}

theorem envPhase_release_registers (h : envPhase fs v n = .release) : v.active = true ∧ v.released = true := by
  unfold envPhase at h
  split_ifs at h
  simp_all

theorem envPhase_autoRelease_registers (h : envPhase fs v n = .autoRelease) :
    v.active = true ∧ v.released = false ∧ eq v.sustain zero = true := by
  unfold envPhase at h
  split_ifs at h
  simp_all

theorem envPhase_of_inactive (ha : v.active = false) : envPhase fs v n = .idle := by
  simp [envPhase, ha]

variable (ha : v.active = true)

include ha

theorem envPhase_of_released (hr : v.released = true) : envPhase fs v n = .release := by
  simp [envPhase, ha, hr]

variable (hr : v.released = false)

include hr

theorem envPhase_of_before_attack_end (he : lt (v.e fs n) (seconds v.attack) = true) :
    envPhase fs v n = .attack := by
  simp [envPhase, ha, hr, he]

variable (he : lt (v.e fs n) (seconds v.attack) = false)

include he

theorem envPhase_of_no_sustain (hs : eq v.sustain zero = true) : envPhase fs v n = .autoRelease := by
  simp [envPhase, ha, hr, he, hs]

theorem envPhase_of_before_decay_end (hs : eq v.sustain zero = false)
    (hd : lt (sub (v.e fs n) (seconds v.attack)) (seconds v.decay) = true) : envPhase fs v n = .decay := by
  simp [envPhase, ha, hr, he, hs, hd]

theorem envPhase_of_decay_over (hs : eq v.sustain zero = false)
    (hd : lt (sub (v.e fs n) (seconds v.attack)) (seconds v.decay) = false) : envPhase fs v n = .sustain := by
  simp [envPhase, ha, hr, he, hs, hd]

end

/-- Settles O26: the tests of the case list are those of the phase. -/
theorem envelopeAmplitudeFollowsItsCases : Obligations.EnvelopeAmplitudeFollowsItsCases := by
  intro fs v n e r aS dS rS he hr haS hdS hrS
  obtain rfl : e = v.e fs n := he
  obtain rfl : r = v.r fs n := hr
  obtain rfl : aS = seconds v.attack := haS
  obtain rfl : dS = seconds v.decay := hdS
  obtain rfl : rS = seconds v.release := hrS
  cases ha : v.active with
  | false => simp [envAmp, envPhase_of_inactive ha]
  | true =>
  cases hr : v.released with
  | true => simp [envAmp, envPhase_of_released ha hr, releaseRamp]
  | false =>
  cases he : lt (v.e fs n) (seconds v.attack) with
  | true => simp [envAmp, envPhase_of_before_attack_end ha hr he]
  | false =>
  cases hs : eq v.sustain zero with
  | true => simp [envAmp, envPhase_of_no_sustain ha hr he hs, releaseRamp]
  | false =>
  cases hd : lt (sub (v.e fs n) (seconds v.attack)) (seconds v.decay) with
  | true => simp [envAmp, envPhase_of_before_decay_end ha hr he hs hd]
  | false => simp [envAmp, envPhase_of_decay_over ha hr he hs hd]

/-! ### Completion (rule R143) -/

theorem releaseRamp_completed {v : Env} {x : F64} (level : F64) (h : le (seconds v.release) x = true) :
    releaseRamp v level x = zero := if_pos h

/-- A completed release, or a completed auto-release. -/
theorem envDone_iff {fs : F64} {v : Env} {n : BitVec 64} :
    envDone fs v n = true ↔ v.active = true ∧
      ((v.released = true ∧ le (seconds v.release) (v.r fs n) = true) ∨
        (v.released = false ∧ le (seconds v.attack) (v.e fs n) = true ∧ eq v.sustain zero = true ∧
          le (seconds v.release) (sub (v.e fs n) (seconds v.attack)) = true)) := by
  constructor
  · intro h
    unfold envDone at h
    split at h
    next hφ =>
      obtain ⟨ha, hr⟩ := envPhase_release_registers hφ
      exact ⟨ha, .inl ⟨hr, h⟩⟩
    next hφ =>
      obtain ⟨ha, hr, hs⟩ := envPhase_autoRelease_registers hφ
      obtain ⟨hge, hle⟩ := Bool.and_eq_true_iff.1 h
      exact ⟨ha, .inr ⟨hr, hge, hs, hle⟩⟩
    all_goals cases h
  · rintro ⟨ha, ⟨hr, hle⟩ | ⟨hr, hge, hs, hle⟩⟩
    · rw [envDone, envPhase_of_released ha hr]
      exact hle
    · rw [envDone, envPhase_of_no_sustain ha hr (lt_eq_false_of_le hge) hs]
      exact Bool.and_eq_true_iff.2 ⟨hge, hle⟩

/-- Settles O27: in both completed cases the amplitude is a release ramp past its end. -/
theorem completedEnvelopeIsSilent : Obligations.CompletedEnvelopeIsSilent := by
  intro fs v n e r aS rS he hr haS hrS
  obtain rfl : e = v.e fs n := he
  obtain rfl : r = v.r fs n := hr
  obtain rfl : aS = seconds v.attack := haS
  obtain rfl : rS = seconds v.release := hrS
  refine ⟨envDone_iff, fun h => ?_⟩
  obtain ⟨ha, ⟨hr, hle⟩ | ⟨hr, hge, hs, hle⟩⟩ := envDone_iff.1 h
  · rw [envAmp, envPhase_of_released ha hr]
    exact releaseRamp_completed v.aOff hle
  · rw [envAmp, envPhase_of_no_sustain ha hr (lt_eq_false_of_le hge) hs]
    exact releaseRamp_completed one hle

/-! ### The ramps (rule R147) -/

/-- A release ramp never rises: past its end it is 0.0, and before it every operation of its formula is monotone. -/
theorem units_releaseRamp_le {v : Env} (hv : EnvOk v) {level x y : F64} (hl : Within level zero one)
    (hx : isFinite x = true) (hy : isFinite y = true) (hx0 : 0 ≤ units x) (h : units x ≤ units y) :
    units (releaseRamp v level y) ≤ units (releaseRamp v level x) := by
  obtain ⟨hrf, -⟩ := seconds_nonneg hv.release_finite hv.release_nonneg
  by_cases hend : le (seconds v.release) y = true
  · obtain ⟨-, h0, -⟩ := unit_iff.1 (releaseRamp_unit hv hl hx hx0)
    rwa [releaseRamp_completed level hend, units_zero]
  · have hylt := units_lt_of_not_le hrf hy hend
    have hxlt := h.trans_lt hylt
    have hxend : le (seconds v.release) x ≠ true := fun hle => hxlt.not_ge (le_iff.1 hle).2.2
    have hdx := unit_div hx hrf hx0 hxlt
    have hdy := unit_div hy hrf (hx0.trans h) hylt
    rw [releaseRamp, releaseRamp, if_neg hend, if_neg hxend]
    refine units_mul_le (unit_one_sub hdy) (unit_one_sub hdx) hl ?_
    exact units_one_sub_le hdx hdy (units_unit_div_le hx hy hrf hx0 h hylt)

section

variable {p : Params} {v : Env} {n m : BitVec 64} (hp : p.Legal)

include hp

/-- Rounded or not, time does not run backwards. -/
theorem units_elapsed_le {n0 : BitVec 64} (h : (n - n0).toNat ≤ (m - n0).toNat) :
    units (elapsed p.fs n n0) ≤ units (elapsed p.fs m n0) := by
  have hfs := one_le_fs hp
  rw [units_one] at hfs
  obtain ⟨hnf, hn0⟩ := nonneg_of_within countBound_finite (ofNat_within (n - n0).isLt)
  obtain ⟨hmf, hm0⟩ := nonneg_of_within countBound_finite (ofNat_within (m - n0).isLt)
  obtain ⟨hfin, h0⟩ := elapsed_nonneg hp m n0
  have hcount := units_le_of_mag_le hm0 (mag_ofNat_le h hmf)
  exact units_div_le hnf hmf hp.fs_finite (lt_of_lt_of_le (by positivity) hfs) hn0 hcount hfin h0

variable (hv : EnvOk v)

include hv

theorem attack_rises (ha : v.active = true) (hr : v.released = false)
    (h : (n - v.nOn).toNat ≤ (m - v.nOn).toNat) (hm : lt (v.e p.fs m) (seconds v.attack) = true) :
    le (envAmp p.fs v n) (envAmp p.fs v m) = true := by
  obtain ⟨haf, -⟩ := seconds_nonneg hv.attack_finite hv.attack_nonneg
  obtain ⟨hnf, hn0⟩ := elapsed_nonneg hp n v.nOn
  obtain ⟨hmf, -⟩ := elapsed_nonneg hp m v.nOn
  obtain ⟨-, han, hlt⟩ := lt_iff.1 hm
  have hle := units_elapsed_le hp h
  have hn : lt (v.e p.fs n) (seconds v.attack) = true :=
    lt_iff.2 ⟨isNaN_of_finite hnf, han, hle.trans_lt hlt⟩
  refine unit_le (envAmp_unit hp hv n) (envAmp_unit hp hv m) ?_
  rw [envAmp, envAmp, envPhase_of_before_attack_end ha hr hn, envPhase_of_before_attack_end ha hr hm]
  exact units_unit_div_le hnf hmf haf hn0 hle hlt

theorem release_falls (ha : v.active = true) (hr : v.released = true)
    (h : (n - v.nOff).toNat ≤ (m - v.nOff).toNat) : le (envAmp p.fs v m) (envAmp p.fs v n) = true := by
  obtain ⟨hnf, hn0⟩ := elapsed_nonneg hp n v.nOff
  obtain ⟨hmf, -⟩ := elapsed_nonneg hp m v.nOff
  refine unit_le (envAmp_unit hp hv m) (envAmp_unit hp hv n) ?_
  rw [envAmp, envAmp, envPhase_of_released ha hr, envPhase_of_released ha hr]
  exact units_releaseRamp_le hv ⟨hv.aOff_lo, hv.aOff_hi⟩ hnf hmf hn0 (units_elapsed_le hp h)

end

/-- Settles O29: the two ramps by the monotonicity of rounding, the other two by the phase. -/
theorem envelopeRampsAreMonotone : Obligations.EnvelopeRampsAreMonotone := by
  intro p v n m hp hv
  refine ⟨attack_rises hp hv, fun ha hr hs hge hd => ?_, release_falls hp hv, fun ha => ?_⟩
  · rw [envAmp, envPhase_of_decay_over ha hr (lt_eq_false_of_le hge) hs (lt_eq_false_of_le hd)]
  · rw [envAmp, envPhase_of_inactive ha]

end Sys2Proof.Machine
end

section
/-! PROOFS. The envelope's setters and the key events: the words each command decodes from, its next state, and its
refused operands (rules R144, R145, R150 to R153, R160, R161). -/

namespace Sys2Proof.Machine

open F64 Sys2Proof.Claims

/-! ### The shared shape of setters without operands but D (rules R82, R283, R284) -/

theorem none_noFields : noFields.none = true := rfl

theorem none_eq_false {f : Fields} (h : f ≠ noFields) : f.none = false := by
  obtain ⟨a, b, imm⟩ := f
  rw [Bool.eq_false_iff]
  intro hn
  simp_all [Fields.none, noFields]

/-- A command that takes no field, and whose next state for a finite operand is `upd`, is a plain setter. -/
theorem plainNumSetter_of_exec {op : BitVec 8} {mk : Fields → F64 → Instr} {upd : F64 → State → State}
    (hop : opcodeMap op = some (.hd mk))
    (hexec : ∀ d s, d.isFinite = true → exec (mk noFields d) s = .next (upd d s))
    (hfields : ∀ f d, (mk f d).fieldsOk = f.none) (hdata : ∀ f d, (mk f d).data = some d) :
    PlainNumSetter op mk upd := by
  refine ⟨isHD_of_opcodeMap hop, fun s d hd => hexec d s hd, fun s f d h => ?_, fun s d hd => ?_⟩
  · exact exec_refused ((hfields f d).trans (none_eq_false h)) s
  · refine exec_nonfinite ((hfields noFields d).trans none_noFields) ?_ s
    rw [Instr.dataOk, hdata]
    exact hd

/-- The two ways to write a clamp agree on every value, a NaN too, where the range is not empty. -/
theorem limited_eq_clamp {lo hi : F64} (h : le lo hi = true) (d : F64) : limited lo hi d = clamp d lo hi := by
  unfold limited clamp
  cases hlo : le lo d with
  | true => simp
  | false =>
    have hhi : lt hi d = false := by
      rw [Bool.eq_false_iff]
      intro hlt
      obtain ⟨hnhi, hnd, hu⟩ := lt_iff.1 hlt
      have hle := le_trans h (le_iff.2 ⟨hnhi, hnd, hu.le⟩)
      simp [hlo] at hle
    simp [hhi]

/-- A command that is `setEnv` of `upd` is a plain setter of an envelope register. -/
theorem envSetter_of_exec {op : BitVec 8} {mk : Fields → F64 → Instr} (upd : F64 → Env → Env)
    (hop : opcodeMap op = some (.hd mk)) (hexec : ∀ d s, exec (mk noFields d) s = setEnv noFields d (upd d) s)
    (hfields : ∀ f d, (mk f d).fieldsOk = f.none) (hdata : ∀ f d, (mk f d).data = some d) :
    PlainNumSetter op mk fun d s => { s with env := upd d s.env } :=
  plainNumSetter_of_exec hop (fun d s hd => (hexec d s).trans (setEnv_accepted (upd d) s hd)) hfields hdata

/-- Settles O23: all four are `setEnv` of their register update. -/
theorem envSettersClamp : Obligations.EnvSettersClamp := by
  refine ⟨?_, ?_, ?_, ?_⟩
  · exact envSetter_of_exec (fun d v => { v with attack := clampWindow d }) rfl (fun _ _ => rfl)
      (fun _ _ => rfl) (fun _ _ => rfl)
  · exact envSetter_of_exec (fun d v => { v with decay := clampWindow d }) rfl (fun _ _ => rfl)
      (fun _ _ => rfl) (fun _ _ => rfl)
  · refine envSetter_of_exec (fun d v => { v with sustain := limited zero one d }) rfl (fun d s => ?_)
      (fun _ _ => rfl) (fun _ _ => rfl)
    rw [limited_eq_clamp unit_range]
    rfl
  · exact envSetter_of_exec (fun d v => { v with release := clampWindow d }) rfl (fun _ _ => rfl)
      (fun _ _ => rfl) (fun _ _ => rfl)

/-! ### NOTE_ON and NOTE_OFF (rules R160, R161) -/

section

variable {f : Fields} {n : BitVec 7} (s : State)

theorem immUpTo_eq_false {k : Nat} : f.immUpTo k = false ↔ f.a ≠ 0#4 ∨ f.b ≠ 0#4 ∨ k < f.imm.toNat := by
  simp only [Fields.immUpTo, Bool.and_eq_false_iff, decide_eq_false_iff_not, not_le, beq_eq_false_iff_ne, or_assoc]
  rfl

theorem noteOn_held (h : n ∈ s.held) : noteOn n s = s := if_pos h

theorem noteOn_full (h : n ∉ s.held) (hfull : s.held.length = s.cfg.maxNotes) :
    noteOn n s = raise .noteFull s := by
  simp [noteOn, h, hfull]

theorem noteOn_new (h : n ∉ s.held) (hroom : s.held.length ≠ s.cfg.maxNotes) : noteOn n s = addNote n s := by
  simp [noteOn, h, hroom]

theorem addNote_first (h : s.held = []) : addNote n s = envStart { s with held := [n] } := by
  simp [addNote, h]

theorem addNote_next (h : s.held ≠ []) : addNote n s = { s with held := s.held ++ [n] } := if_neg h

theorem noteOff_unknown (h : n ∉ s.held) : noteOff n s = s := if_neg h

/-- Of distinct notes, removing one is keeping the others. -/
theorem noteOff_other (hd : s.held.Nodup) (h : n ∈ s.held) (hne : s.held ≠ [n]) :
    noteOff n s = { s with held := s.held.filter (· ≠ n) } := by
  have herase : s.held.erase n ≠ [] := by
    rw [ne_eq, List.erase_eq_nil_iff]
    exact not_or.2 ⟨List.ne_nil_of_mem h, hne⟩
  have hkeep : s.held.erase n = s.held.filter (· ≠ n) := by simp [hd.erase_eq_filter, bne, beq_eq_decide]
  rw [noteOff, if_pos h, if_neg herase, hkeep]

theorem noteOff_last (h : s.held = [n]) : noteOff n s = envStop { s with held := [] } := by
  simp [noteOff, h]

variable (ha : f.a = 0#4) (hb : f.b = 0#4) (himm : f.imm.toNat = n.toNat)

include ha hb himm

theorem exec_noteOn : exec (.noteOn f) s = .next (noteOn n s) := by
  simp [exec, execNoteOn, ha, hb, noteForm_eq_some.2 himm]

theorem exec_noteOff : exec (.noteOff f) s = .next (noteOff n s) := by
  simp [exec, execNoteOff, ha, hb, noteForm_eq_some.2 himm]

end

/-- Settles O24: the branches of `noteOn`, and of `addNote` for the first note. -/
theorem noteOnAppendsAndStartsTheEnvelope : Obligations.NoteOnAppendsAndStartsTheEnvelope := by
  refine ⟨isH_of_opcodeMap rfl, fun s f n ha hb himm => ?_,
    fun s f h => exec_refused (i := .noteOn f) (immUpTo_eq_false.2 h) s⟩
  rw [exec_noteOn s ha hb himm]
  refine ⟨fun h => ?_, fun h hfull => ?_, fun h hroom hne => ?_, fun h hroom he => ?_⟩
  · rw [noteOn_held s h]
  · rw [noteOn_full s h hfull]
    rfl
  · rw [noteOn_new s h hroom, addNote_next s hne]
  · rw [noteOn_new s h hroom, addNote_first s he]
    rfl

/-- Settles O25: the branches of `noteOff`. -/
theorem noteOffRemovesAndStopsTheEnvelope : Obligations.NoteOffRemovesAndStopsTheEnvelope := by
  refine ⟨isH_of_opcodeMap rfl, fun s f n ha hb himm hd => ?_,
    fun s f h => exec_refused (i := .noteOff f) (immUpTo_eq_false.2 h) s⟩
  rw [exec_noteOff s ha hb himm]
  refine ⟨fun h => ?_, fun h hne => ?_, fun h => ?_⟩
  · rw [noteOff_unknown s h]
  · rw [noteOff_other s hd h hne]
  · rw [noteOff_last s h]
    rfl

end Sys2Proof.Machine
end

section
/-! PROOFS. The setters of the filter, the shapers, the mixer and the time: the words each decodes from, its next state,
and its refused operands (rules R195 to R202, R240, R263, R283, R284). -/

namespace Sys2Proof.Machine

open F64 Sys2Proof.Claims

/-! ### Setters without operands but D (rules R195, R196, R200, R201, R240, R263) -/

theorem dataOnly_accepted {d : F64} (t s : State) (hd : d.isFinite = true) :
    commandD (do noOperands noFields; some t) d s = .next t :=
  setNum_accepted t s hd

/-- Settles O30: each writes its one register where D is finite, FLT_RES the clamped D. -/
theorem plainNumSettersWriteOneRegister : Obligations.PlainNumSettersWriteOneRegister := by
  refine ⟨?_, ?_, ?_, ?_, ?_, ?_⟩
  case refine_2 =>
    refine plainNumSetter_of_exec rfl (fun d s hd => ?_) (fun _ _ => rfl) (fun _ _ => rfl)
    have hres : limited ⟨0x3FE0000000000000#64⟩ ⟨0x4034000000000000#64⟩ d = clamp d Config.qMin Config.qMax :=
      limited_eq_clamp q_range d
    rw [hres]
    exact dataOnly_accepted _ s hd
  all_goals
    exact plainNumSetter_of_exec rfl (fun d s hd => dataOnly_accepted _ s hd) (fun _ _ => rfl) (fun _ _ => rfl)

/-! ### Setters with the immediate operand alone (rules R197 to R199, R202) -/

section

variable {α : Type} {f : Fields} {form : Option α} {g : α → State} (s : State)

theorem immOnly_accepted {v : α} (ha : f.a = 0#4) (hb : f.b = 0#4) (hv : form = some v) :
    command (do unused f.a; unused f.b; let v ← form; some (g v)) s = .next (g v) := by
  simp [ha, hb, hv]

/-- One refused field is enough. -/
theorem immOnly_refused (h : f.a ≠ 0#4 ∨ f.b ≠ 0#4 ∨ form = none) :
    command (do unused f.a; unused f.b; let v ← form; some (g v)) s = .next (raise .badField s) := by
  have hnone : (do unused f.a; unused f.b; let v ← form; some (g v)) = none := by
    rcases h with ha | hb | hv
    · simp [unused_eq_none.2 ha]
    · simp [unused_eq_none.2 hb]
    · simp [hv]
  rw [hnone, command_none]

end

/-- A command that reads its immediate by `form`, and no other field, is a setter of the values `form` accepts. -/
theorem plainImmSetter_of_exec {α : Type} {op : BitVec 8} {mk : Fields → Instr} {accepted : Nat → α → Prop}
    {upd : α → State → State} (form : BitVec 16 → Option α) (hop : opcodeMap op = some (.h mk))
    (hexec : ∀ f s, exec (mk f) s = command (do unused f.a; unused f.b; let v ← form f.imm; some (upd v s)) s)
    (hform : ∀ {imm v}, form imm = some v ↔ accepted imm.toNat v) : PlainImmSetter op mk accepted upd := by
  refine ⟨isH_of_opcodeMap hop, fun s f v ha hb hv => ?_, fun s f h => ?_⟩
  · rw [hexec]
    exact immOnly_accepted s ha hb (hform.2 hv)
  · rw [hexec]
    refine immOnly_refused s (h.imp_right (Or.imp_right fun hv => ?_))
    exact Option.eq_none_iff_forall_ne_some.2 fun v hs => hv v (hform.1 hs)

/-- Settles O31: the immediate's accepted values are the codes of the register's values. -/
theorem filterImmediateSetters : Obligations.FilterImmediateSetters :=
  ⟨plainImmSetter_of_exec polesForm rfl (fun _ _ => rfl) polesForm_eq_some,
    plainImmSetter_of_exec modeForm rfl (fun _ _ => rfl) modeForm_eq_some,
    plainImmSetter_of_exec bitsForm rfl (fun _ _ => rfl) bitsForm_eq_some⟩

/-- Settles O32: the immediate's accepted values are the two flags. -/
theorem shpClipEnSetsTheFlag : Obligations.ShpClipEnSetsTheFlag :=
  plainImmSetter_of_exec flagForm rfl (fun _ _ => rfl) flagForm_eq_some

end Sys2Proof.Machine
end

section
/-! PROOFS. The filter equations, and steps 4 to 7 of a pass: what each stage reads, and the channel after it (rules
R181 to R189, R234 to R237). -/

namespace Sys2Proof.F64

/-! ### Constants as bit patterns (rule R9) -/

theorem pi_eq : pi = ⟨0x400921FB54442D18#64⟩ := rfl

theorem neg_two_eq : neg two = ⟨0xC000000000000000#64⟩ := by decide

end Sys2Proof.F64

namespace Sys2Proof.Machine

open F64 Sys2Proof.Claims

/-! ### The filters (rules R181, R183 to R185) -/

section

variable {F : Fns} {fs fc x y0 y1 : F64} {flt : Flt} {z : Chan} {c0 c1 : Cells}
  (h0 : (y0, c0) = svfStep F fs fc flt.res z.svf0 x)

include h0

theorem svfCascade_two (hp : flt.poles = .two) : svfCascade F fs flt fc x z = (y0, { z with svf0 := c0 }) := by
  rw [svfCascade, hp, ← h0]

theorem svfCascade_four (h1 : (y1, c1) = svfStep F fs fc flt.res z.svf1 y0) (hp : flt.poles = .four) :
    svfCascade F fs flt fc x z = (y1, { z with svf0 := c0, svf1 := c1 }) := by
  rw [svfCascade, hp, ← h0]
  dsimp only
  rw [← h1]

end

/-- Settles O50: the model's equations, with its constants as bit patterns. -/
theorem filterEquations : Obligations.FilterEquations := by
  refine ⟨fun F fs fc q w0 cw a0 hw hc ha kind => ?_, fun k z x y hy => ?_,
    fun F fs fc q g a1 a2 v1 v2 x z hg h1 h2 hv1 hv2 => ?_,
    fun F fs fc x flt z y0 y1 c0 c1 h0 h1 => ⟨svfCascade_two h0, svfCascade_four h0 h1⟩⟩
  · rw [← twoPi_eq] at hw
    rw [← neg_two_eq]
    subst hw hc ha
    refine ⟨rfl, rfl, rfl, fun hlp => ?_, fun hhp => ?_⟩
    · subst hlp
      exact ⟨rfl, rfl⟩
    · subst hhp
      exact ⟨rfl, rfl⟩
  · subst hy
    rfl
  · rw [← pi_eq] at hg
    subst hg h1 h2 hv1 hv2
    rfl

/-! ### The routed sums (rules R220, R221, R234 to R236) -/

/-- A sum over rows of the matrix is the sum over the pairs of each row and its value. -/
theorem routedSum_eq_addRouted (x : Ctx) (out : Vector F64 3) (fprev : F64) (rows : List (Fin 5)) (col : Nat) :
    routedSum x out fprev rows col =
      addRouted x.route col (fun v => v) (rows.map fun src => (src, sourceVal out fprev x.e src)) := by
  rw [addRouted, List.foldl_map]
  rfl

theorem step4_eq (x : Ctx) (out : Vector F64 3) :
    step4 x out = addRouted x.route 6 (fun v => v) [(0, out[0]), (1, out[1]), (2, out[2])] :=
  routedSum_eq_addRouted x out x.fprev [0, 1, 2] 6

theorem step6_eq (x : Ctx) (out : Vector F64 3) (fprev master : F64) :
    step6 x out fprev master = mul (addRouted x.route 8 (fun v => v)
      [(0, out[0]), (1, out[1]), (2, out[2]), (3, fprev), (4, x.e)]) master :=
  congrArg (mul · master) (routedSum_eq_addRouted x out fprev sources 8)

theorem effectiveCutoff_eq (F : Fns) (x : Ctx) (cutoff : F64) (out : Vector F64 3) :
    effectiveCutoff F x cutoff out = limited Config.fcMin Config.fcMax
      (if (x.route[0]).getLsbD 7 || (x.route[1]).getLsbD 7 || (x.route[2]).getLsbD 7 || (x.route[4]).getLsbD 7 then
        mul cutoff (F.fexp2 (mul x.cfg.cutOct
          (addRouted x.route 7 (fun v => v) [(0, out[0]), (1, out[1]), (2, out[2]), (4, x.e)])))
      else cutoff) := by
  have hany : (cutoffSources.any fun src => cell x.route src cutoffCol) =
      ((x.route[0]).getLsbD 7 || (x.route[1]).getLsbD 7 || (x.route[2]).getLsbD 7 || (x.route[4]).getLsbD 7) := by
    simp [cutoffSources, cell, cutoffCol, Bool.or_assoc]
  rw [effectiveCutoff, hany, routedSum_eq_addRouted, limited_eq_clamp (by decide +kernel)]
  rfl

/-! ### Steps 4 to 7 (rules R186, R189, R234 to R237) -/

theorem filterCore_eq_modeOutput (F : Fns) (fs : F64) (flt : Flt) (fc x : F64) (z : Chan) :
    filterCore F fs flt fc x z = modeOutput F fs flt fc x z := by
  unfold filterCore modeOutput
  cases flt.mode <;> rfl

theorem shape_eq_shaped (F : Fns) (h : Shp) (y : F64) : shape F h y = shaped F h y := by
  simp only [shape, shaped, ne_eq, ite_not]

/-- Settles O49: the stages one by one, on the outputs of steps 1 to 3. -/
theorem filterAndMixerStagesReadTheirColumns : Obligations.FilterAndMixerStagesReadTheirColumns := by
  intro F e s c out fin fc y mix r h hout hfin hfc hr hy hmix hh
  have hcut : effectiveCutoff F (ctxOf s e c) s.flt.cutoff out = fc := (effectiveCutoff_eq ..).trans hfc.symm
  have hin : step4 (ctxOf s e c) out = fin := (step4_eq ..).trans hfin.symm
  have hfilter : filterStage F s e c out = { r.2 with fprev := y } := by
    rw [hy, hr, ← filterCore_eq_modeOutput, ← shape_eq_shaped, ← hcut, ← hin]
    rfl
  have hmixer : step6 (ctxOf s e c) out y s.master = mix := (step6_eq ..).trans hmix.symm
  have hcells : r.2.hp = s.chan[c].hp := by rw [← filterStage_hp F s e c out, hfilter]
  have houtput : outputStage F s e c out (filterStage F s e c out) = (h.1, { r.2 with fprev := y, hp := h.2 }) := by
    rw [hfilter, outputStage]
    dsimp only
    rw [hcells, hmixer, hh]
    rfl
  have hpass : compose F e s c = (h.1, { s with
      osc := (voices F s e c).osc, draws := (voices F s e c).draws,
      chan := s.chan.set c { r.2 with fprev := y, hp := h.2 } }) := by
    rw [compose, ← hout]
    dsimp only
    rw [houtput]
  rw [hpass]
  exact ⟨rfl, rfl⟩

end Sys2Proof.Machine
end

section
/-! PROOFS. The shapers: the soft-clip's bound, and the products, quotients and roundings of the bit-crush, all of them
exact (rules R11, R187, R188). -/

namespace Sys2Proof.F64

open Sys2Proof.Claims

/-! ### Results that need no rounding (rule R8) -/

theorem oneUnits_cast : (oneUnits : Int) = 2 ^ 1074 := Nat.cast_pow 2 1074

theorem oneUnits_pos : 0 < oneUnits := by
  unfold oneUnits
  positivity

/-- An integer with a significand of 53 bits is a finite value's units. -/
theorem exists_units {n : Int} {c j : Nat} (hn : n.natAbs = c * 2 ^ j) (hc : c < 2 ^ 53) (hj : j ≤ 2045) :
    ∃ r : F64, isFinite r = true ∧ units r = n := by
  obtain ⟨hfin, hmag⟩ := roundRatio_exact (decide (n < 0)) hc hj
  refine ⟨_, hfin, ?_⟩
  simp only [units, roundRatio_isNeg, hmag, decide_eq_true_eq]
  split <;> omega

section

variable {a b r : F64} (ha : isFinite a = true) (hb : isFinite b = true) (hr : isFinite r = true)

include ha hb hr

theorem units_mul_exact (h : units a * units b = units r * 2 ^ 1074) : units (mul a b) = units r := by
  obtain ⟨-, -, -, h1, h2⟩ := within_iff.1 (mul_within ha hb hr hr h.ge h.le)
  exact le_antisymm h2 h1

theorem units_div_exact (hpos : 0 < units b) (h : units a * 2 ^ 1074 = units r * units b) :
    units (div a b) = units r := by
  obtain ⟨-, -, -, h1, h2⟩ := within_iff.1 (div_within ha hb hr hr hpos h.ge h.le)
  exact le_antisymm h2 h1

end

theorem units_ofNat {n : Nat} (h : n < 2 ^ 53) :
    isFinite (F64.ofNat n) = true ∧ units (F64.ofNat n) = n * 2 ^ 1074 := by
  obtain ⟨hfin, hmag⟩ := roundRatio_exact false h (j := 1074) (by decide)
  refine ⟨hfin, ?_⟩
  rw [F64.ofNat, oneUnits, units_of_not_isNeg (roundRatio_isNeg ..), hmag, Nat.cast_mul, Nat.cast_pow]
  rfl

/-- An infinite or NaN dividend over a finite divisor gives no finite quotient. -/
theorem isFinite_of_isFinite_div {a b : F64} (hb : isFinite b = true) (h : isFinite (div a b) = true) :
    isFinite a = true := by
  refine isFinite_of_not_nan_inf ?_ ?_
  · rw [Bool.eq_false_iff]
    intro ha
    simpa [isNaN_of_finite h] using div_nan_operand (b := b) (.inl ha)
  · rw [Bool.eq_false_iff]
    intro ha
    have hdiv : div a b = infOf (isNeg a != isNeg b) := by
      simp [div, isNaN_of_isInf ha, isNaN_of_finite hb, ha, isInf_of_finite hb]
    have hinf := infOf_isInf (isNeg a != isNeg b)
    rw [← hdiv, isInf_of_finite h] at hinf
    exact absurd hinf (by decide)

/-! ### Scaling by a power of two (rule R188) -/

section

variable {q : F64} {k : Nat} (hq : isFinite q = true) (hu : units q = 2 ^ k * 2 ^ 1074)

include hq hu

/-- A product by a power of two is exact where it does not overflow: the significand stays. -/
theorem units_mul_twoPow {y : F64} (hy : isFinite y = true) (hk : k ≤ 23) (hfin : isFinite (mul y q) = true) :
    units (mul y q) = units y * 2 ^ k := by
  obtain ⟨c, j, hm, hc, hj, hlead⟩ := exists_scaled hy
  have hn : (units y * 2 ^ k).natAbs = c * 2 ^ (j + k) := by
    rw [Int.natAbs_mul, units_natAbs, hm, Int.natAbs_pow, pow_add, Nat.mul_assoc]
    rfl
  have hjk : j + k ≤ 2045 := by
    by_contra hlt
    have hbig : (2 ^ 54 - 1) * 2 ^ 2044 ≤ c * 2 ^ (j + k) := by
      calc (2 ^ 54 - 1) * 2 ^ 2044 ≤ 2 ^ 54 * 2 ^ 2044 := Nat.mul_le_mul_right _ (Nat.sub_le ..)
        _ = 2 ^ 52 * 2 ^ 2046 := by rw [← pow_add, ← pow_add]
        _ ≤ c * 2 ^ (j + k) := Nat.mul_le_mul (by omega) (pow_le_pow_right₀ one_le_two (by omega))
    have hover : (2 ^ 54 - 1) * 2 ^ 2044 * 2 ^ 1074 ≤ (units y * units q).natAbs := by
      rw [hu, ← Int.mul_assoc, natAbs_mul_oneUnits, hn]
      exact Nat.mul_le_mul_right _ hbig
    have hinf := (mul_correctlyRounded hy hq).1.2 ((overflow_cast ..).2 hover)
    exact absurd hinf (by rw [isInf_of_finite hfin]; decide)
  obtain ⟨r, hr, hru⟩ := exists_units hn hc hjk
  rw [← hru]
  refine units_mul_exact hy hq hr ?_
  rw [hru, hu, Int.mul_assoc]

/-- A quotient of a whole number by a power of two is exact: the significand stays, and the exponent is high. -/
theorem units_div_twoPow {x : F64} {m : Int} (hx : isFinite x = true) (hk : k ≤ 23)
    (hm : units x = m * 2 ^ 1074) : units (div x q) * 2 ^ k = units x := by
  have hsplit : (2 : Int) ^ 1074 = 2 ^ (1074 - k) * 2 ^ k := by rw [← pow_add, Nat.sub_add_cancel (by omega)]
  have hxn : units x = m * 2 ^ (1074 - k) * 2 ^ k := by rw [hm, hsplit, Int.mul_assoc]
  generalize m * 2 ^ (1074 - k) = n at hxn
  obtain ⟨r, hr, hru⟩ : ∃ r : F64, isFinite r = true ∧ units r = n := by
    obtain ⟨c, j, hmag, hc, hj, -⟩ := exists_scaled hx
    have hn : n.natAbs * 2 ^ k = c * 2 ^ j := by
      rw [← hmag, ← units_natAbs, hxn, Int.natAbs_mul, Int.natAbs_pow]
      rfl
    rcases le_or_gt k j with hkj | hkj
    · refine exists_units (c := c) (j := j - k) (Nat.eq_of_mul_eq_mul_right (Nat.two_pow_pos k) ?_) hc (by omega)
      rw [hn, Nat.mul_assoc, ← pow_add, Nat.sub_add_cancel hkj]
    · have hle : n.natAbs * 2 ^ k ≤ c * 2 ^ k := hn.trans_le (by gcongr; exact one_le_two)
      have hnc := Nat.le_of_mul_le_mul_right hle (Nat.two_pow_pos k)
      exact exists_units (j := 0) (Nat.mul_one _).symm (hnc.trans_lt hc) (by decide)
  rw [units_div_exact hx hq hr (by rw [hu]; positivity) (by rw [hxn, hru, hu, Int.mul_assoc]), hru, hxn]

end

/-! ### Rounding half away from zero (rule R11) -/

/-- A magnitude rounded half up to a whole number keeps a significand of 53 bits: above 2^52 it is whole already. -/
theorem exists_scaled_whole {x : F64} (h : isFinite x = true) :
    ∃ c j, (2 * mag x + oneUnits) / (2 * oneUnits) * oneUnits = c * 2 ^ j ∧ c < 2 ^ 53 ∧ j ≤ 2045 := by
  obtain ⟨c, j, hm, hc, hj, -⟩ := exists_scaled h
  have hU := oneUnits_pos
  rcases le_or_gt 1074 j with h1 | h1
  · refine ⟨c, j, ?_, hc, hj⟩
    have hw : c * 2 ^ j = c * 2 ^ (j - 1074) * oneUnits := by
      rw [oneUnits, Nat.mul_assoc, ← pow_add, Nat.sub_add_cancel h1]
    rw [hm, hw]
    generalize c * 2 ^ (j - 1074) = n
    rw [show 2 * (n * oneUnits) + oneUnits = oneUnits + n * (2 * oneUnits) by ring,
      Nat.add_mul_div_right _ _ (by omega), Nat.div_eq_of_lt (by omega), Nat.zero_add]
  · refine ⟨_, 1074, rfl, ?_, by decide⟩
    have hlt : mag x < 2 ^ 53 * 2 ^ 1073 := by
      rw [hm]
      exact Nat.mul_lt_mul_of_lt_of_le hc (pow_le_pow_right₀ one_le_two (by omega)) (by positivity)
    have hU2 : oneUnits = 2 * 2 ^ 1073 := by rw [oneUnits, ← pow_succ']
    rw [Nat.div_lt_iff_lt_mul (by omega), hU2]
    generalize 2 ^ 1073 = P at *
    omega

theorem mag_roundAway {x : F64} (h : isFinite x = true) :
    isFinite (roundAway x) = true ∧
      mag (roundAway x) = (2 * mag x + oneUnits) / (2 * oneUnits) * oneUnits := by
  obtain ⟨c, j, heq, hc, hj⟩ := exists_scaled_whole h
  rw [roundAway, if_pos h, heq]
  exact roundRatio_exact _ hc hj

theorem roundAway_whole {x : F64} (h : isFinite x = true) : ∃ m : Int, units (roundAway x) = m * 2 ^ 1074 := by
  rw [← oneUnits_cast]
  refine exists_eq_mul_left_of_dvd (Int.natCast_dvd.2 ?_)
  rw [units_natAbs, (mag_roundAway h).2]
  exact Nat.dvd_mul_left ..

/-- Rounding half away from zero moves a value by half a unit at most, and where it is half a unit, away from zero. -/
theorem roundAway_near {x : F64} (h : isFinite x = true) :
    2 * |units (roundAway x) - units x| ≤ 2 ^ 1074 ∧
      (2 * |units (roundAway x) - units x| = 2 ^ 1074 → |units x| < |units (roundAway x)|) := by
  obtain ⟨-, hmag⟩ := mag_roundAway h
  have hneg : isNeg (roundAway x) = isNeg x := by rw [roundAway, if_pos h, roundRatio_isNeg]
  have hpos := oneUnits_pos
  have hdiv := Nat.div_add_mod (2 * mag x + oneUnits) (2 * oneUnits)
  have hrem := Nat.mod_lt (2 * mag x + oneUnits) (y := 2 * oneUnits) (by omega)
  rw [Nat.mul_assoc, Nat.mul_comm oneUnits, ← hmag] at hdiv
  rw [Int.abs_eq_natAbs, Int.abs_eq_natAbs, Int.abs_eq_natAbs, units_natAbs, units_natAbs, ← oneUnits_cast]
  cases hx : isNeg x with
  | false =>
    rw [units_of_not_isNeg (hneg.trans hx), units_of_not_isNeg hx]
    omega
  | true =>
    rw [units_of_isNeg (hneg.trans hx), units_of_isNeg hx]
    omega

/-! ### The unit range by magnitudes -/

theorem within_unit_of_mag_le {x : F64} (hn : isNaN x = false) (h : mag x ≤ mag one) : Within x negOne one := by
  have hone : (mag one : Int) = 2 ^ 1074 := (mag_eq_units (by decide +kernel)).trans units_one
  obtain ⟨h1, h2⟩ := units_le_mag x
  refine within_iff.2 ⟨by decide, hn, by decide, ?_, ?_⟩
  · rw [units_negOne]
    omega
  · rw [units_one]
    omega

theorem twoOverPi_eq : twoOverPi = ⟨0x3FE45F306DC9C883#64⟩ := by decide +kernel

/-- TWO_OVER_PI times HALF_PI is rounded to 1.0, and no number of FATAN's range gives a greater product. -/
theorem twoOverPi_mul_within {x : F64} (h : Within x (neg halfPi) halfPi) :
    Within (mul twoOverPi x) negOne one := by
  have hx : isFinite x = true := isFinite_of_within (by decide +kernel) (by decide +kernel) h
  have hmag : mag x ≤ mag halfPi := by
    obtain ⟨-, -, -, h1, h2⟩ := within_iff.1 h
    have hpos : (mag halfPi : Int) = units halfPi := mag_eq_units (by decide +kernel)
    rw [units_neg] at h1
    rw [← units_natAbs x]
    omega
  have hone : mul twoOverPi halfPi = one := by decide +kernel
  refine within_unit_of_mag_le ?_ ?_
  · rw [mul_of_finite (by decide +kernel) hx]
    exact roundRatio_not_nan ..
  · rw [← hone]
    exact mag_mul_le hx (by decide +kernel) (by decide +kernel) hmag (by rw [hone]; decide)

end Sys2Proof.F64

namespace Sys2Proof.Machine

open F64 Sys2Proof.Claims

/-! ### The shapers (rules R187, R188) -/

theorem softClip_within (h : Shp) (y : F64) : Within (softClip openFns h y) negOne one :=
  twoOverPi_mul_within (fatan_within _)

/-- The scale of the bit-crush is a power of two. -/
theorem fexp2_ofNat {k : Nat} (hk : k ≤ 23) :
    isFinite (fexp2 (F64.ofNat k)) = true ∧ units (fexp2 (F64.ofNat k)) = 2 ^ k * 2 ^ 1074 := by
  obtain ⟨hfin, hu⟩ := units_ofNat (n := k) (by omega)
  rw [fexp2_whole hfin hu (by omega) (by omega)]
  obtain ⟨hpf, hpu⟩ := powTwo_finite_units (k := k) (by omega) (by omega)
  refine ⟨hpf, hpu.trans ?_⟩
  rw [← pow_add]
  congr 1

theorem bitCrush_of_finite (b : Fin 25) {y : F64} (hy : isFinite y = true) :
    bitCrush openFns b y =
      div (roundAway (mul y (fexp2 (F64.ofNat (b.val - 1))))) (fexp2 (F64.ofNat (b.val - 1))) := by
  rw [bitCrush, if_pos hy]
  rfl

/-- A value scaled by 2^k, rounded half away from zero and scaled back: where nothing overflows both scalings are
exact, so the result is on the grid of 2^-k, nearest to the value, and farther from zero from half way. -/
theorem scaled_roundAway_near {y q : F64} {k : Nat} (hq : isFinite q = true) (hu : units q = 2 ^ k * 2 ^ 1074)
    (hk : k ≤ 23) (hy : isFinite y = true) (hfin : isFinite (div (roundAway (mul y q)) q) = true) :
    (∃ m : Int, units (div (roundAway (mul y q)) q) * 2 ^ k = m * 2 ^ 1074) ∧
      |units (div (roundAway (mul y q)) q) - units y| * 2 ^ (k + 1) ≤ 2 ^ 1074 ∧
      (|units (div (roundAway (mul y q)) q) - units y| * 2 ^ (k + 1) = 2 ^ 1074 →
        |units y| < |units (div (roundAway (mul y q)) q)|) := by
  have hround := isFinite_of_isFinite_div hq hfin
  have hmul : isFinite (mul y q) = true := by
    by_contra hinf
    rw [roundAway, if_neg hinf] at hround
    exact hinf hround
  obtain ⟨m, hm⟩ := roundAway_whole hmul
  obtain ⟨hnear, htie⟩ := roundAway_near hmul
  have hdiv := units_div_twoPow hq hu hround hk hm
  rw [units_mul_twoPow hq hu hy hk hmul, ← hdiv] at hnear htie
  rw [← hdiv] at hm
  generalize units (div (roundAway (mul y q)) q) = v at *
  have hP : (0 : Int) < 2 ^ k := by positivity
  have hgap : |v - units y| * 2 ^ (k + 1) = 2 * |v * 2 ^ k - units y * 2 ^ k| := by
    rw [← Int.sub_mul, abs_mul, abs_of_pos hP, pow_succ]
    ring
  rw [hgap]
  refine ⟨⟨m, hm⟩, hnear, fun heq => ?_⟩
  have hlt := htie heq
  rw [abs_mul, abs_mul, abs_of_pos hP] at hlt
  exact Int.lt_of_mul_lt_mul_right hlt hP.le

theorem bitCrush_near {b : Fin 25} {y : F64} (hb : b ≠ 0) (hy : isFinite y = true)
    (hfin : isFinite (bitCrush openFns b y) = true) :
    (∃ m : Int, units (bitCrush openFns b y) * 2 ^ (b.val - 1) = m * 2 ^ 1074) ∧
      |units (bitCrush openFns b y) - units y| * 2 ^ b.val ≤ 2 ^ 1074 ∧
      (|units (bitCrush openFns b y) - units y| * 2 ^ b.val = 2 ^ 1074 →
        |units y| < |units (bitCrush openFns b y)|) := by
  have hpos : b.val ≠ 0 := fun h0 => hb (Fin.ext h0)
  have hsucc : 2 ^ b.val = (2 : Int) ^ (b.val - 1 + 1) := by rw [Nat.sub_add_cancel (by omega)]
  rw [bitCrush_of_finite b hy] at hfin ⊢
  obtain ⟨hq, hu⟩ := fexp2_ofNat (k := b.val - 1) (by omega)
  rw [hsucc]
  exact scaled_roundAway_near hq hu (by omega) hy hfin

/-- Settles O51: the soft-clip's greatest product is 1.0, and the bit-crush rounds once, half away from zero. -/
theorem shapersStayOnTheirGrid : Obligations.ShapersStayOnTheirGrid := by
  refine ⟨fun F h y => ⟨fun hle => ?_, fun hlt => ?_⟩, softClip_within,
    fun b y hb => ⟨bitCrush_near hb, fun hy => ?_⟩⟩
  · rw [← twoOverPi_eq, softClip, show le zero y = true from hle, if_pos rfl]
  · rw [← twoOverPi_eq, softClip, show le zero y = false from hlt, if_neg Bool.false_ne_true]
  · rw [bitCrush, hy]
    rfl

end Sys2Proof.Machine
end

section
/-! PROOFS. The routing matrix and steps 1 to 3 of a pass: what ROUTE_SET writes, the order of the stages, the targets'
sums and products, and the outputs no route reaches (rules R220 to R224, R230 to R233, R305, R316). -/

namespace Sys2Proof.Machine

open F64 Sys2Proof.Claims

/-! ### ROUTE_SET (rules R222, R223, R283) -/

theorem routeRow_mixer_on (row : BitVec 9) : routeRow 8 true row = 0x100#9 := rfl

theorem getLsbD_bit (r : Fin 9) (k : Nat) : (1#9 <<< r.val).getLsbD k = decide (k = r.val) := by
  rw [← BitVec.twoPow_eq, BitVec.getLsbD_twoPow]
  simp [eq_comm]

/-- But for setting the mixer bit, ROUTE_SET writes the bit of the route and keeps the others. -/
theorem routeRow_getLsbD {r : Fin 9} {v : Bool} (h : ¬(r = 8 ∧ v = true)) (row : BitVec 9) {k : Nat} (hk : k < 9) :
    (routeRow r v row).getLsbD k = if k = r.val then v else row.getLsbD k := by
  rw [routeRow, if_neg h]
  cases v with
  | false =>
    rw [if_neg Bool.false_ne_true, BitVec.getLsbD_and, BitVec.getLsbD_not, getLsbD_bit r k]
    by_cases hkr : k = r.val <;> simp [hkr, hk]
  | true =>
    rw [if_pos rfl, BitVec.getLsbD_or, getLsbD_bit r k]
    by_cases hkr : k = r.val <;> simp [hkr]

theorem exec_routeSet {f : Fields} {src : Fin 5} {r : Fin 9} {v : Bool} (s : State) (ha : f.a.toNat = src.val)
    (hb : f.b.toNat = r.val) (himm : f.imm.toNat = v.toNat) :
    exec (.routeSet f) s = .next (s.updRoute src (routeRow r v)) := by
  simp [exec, execRouteSet, srcForm_eq_some.2 ha, routeForm_eq_some.2 hb, flagForm_eq_some.2 himm]

theorem fieldsOk_routeSet {f : Fields} (h : 4 < f.a.toNat ∨ 8 < f.b.toNat ∨ 1 < f.imm.toNat) :
    (Instr.routeSet f).fieldsOk = false := by
  simp only [Instr.fieldsOk, Bool.and_eq_false_iff, decide_eq_false_iff_not, not_le, or_assoc]
  exact h

/-- Settles O33: the row written is `routeRow` of the row before. -/
theorem routeSetWritesOneCell : Obligations.RouteSetWritesOneCell := by
  refine ⟨isH_of_opcodeMap rfl, fun s f src v ha hb himm => ?_, fun s f h => exec_refused (fieldsOk_routeSet h) s⟩
  obtain ⟨r, hr⟩ : ∃ r : Fin 9, f.b.toNat = r.val := ⟨⟨f.b.toNat, by omega⟩, rfl⟩
  rw [hr]
  refine ⟨routeRow r v s.route[src], exec_routeSet s ha hr himm, fun hr8 hv => ?_, fun h k hk => ?_⟩
  · obtain rfl : r = 8 := Fin.ext hr8
    rw [hv, routeRow_mixer_on]
  · refine routeRow_getLsbD ?_ _ hk
    rintro ⟨rfl, rfl⟩
    simp at h

/-- Settles O34: the mixer bit set, the row is that bit alone, and `updRoute` writes one row. -/
theorem selectingMixerClearsTheRow : Obligations.SelectingMixerClearsTheRow := by
  intro s src f ha hb himm
  refine ⟨_, exec_routeSet (r := 8) (v := true) s ha (by simp [hb]) (by simp [himm]), ?_, fun k hk => ?_⟩
  · rw [State.updRoute_self, routeRow_mixer_on]
  · rw [State.updRoute_other s _ hk]

/-! ### Step 1 (rules R231, R316) -/

section

variable (F : Fns) (x : Ctx) (p : Pass) (i j : Fin 3)

theorem set_all_outputs (out : Vector F64 3) (v0 v1 v2 : F64) :
    ((out.set (0 : Fin 3) v0).set (1 : Fin 3) v1).set (2 : Fin 3) v2 = #v[v0, v1, v2] :=
  Vector.ext fun
    | 0, _ | 1, _ | 2, _ => by simp

/-- Step 1 sets the three outputs, each after the draws of the ones before. -/
theorem step1_eq {r0 r1 r2 : F64 × Nat} (h0 : rawOutput F x p.osc[0] p.draws = r0)
    (h1 : rawOutput F x p.osc[1] r0.2 = r1) (h2 : rawOutput F x p.osc[2] r1.2 = r2) :
    step1 F x p = { p with out := #v[r0.1, r1.1, r2.1], draws := r2.2 } := by
  subst h0 h1 h2
  exact congrArg (Pass.mk p.osc · _) (set_all_outputs ..)

theorem step1_out : ∃ k, (step1 F x p).out[j] = (rawOutput F x p.osc[j] k).1 := by
  rw [step1_eq F x p rfl rfl rfl]
  match j with
  | 0 | 1 | 2 => exact ⟨_, rfl⟩

theorem rawOutput_drone {o : Osc} (h : o.drone = true) (k : Nat) :
    rawOutput F x o k = play F x.cfg.sqTie o o.freq x.t x.c k := if_pos h

theorem rawOutput_not_drone {o : Osc} (h : o.drone = false) (k : Nat) : rawOutput F x o k = noteSum F x o k :=
  if_neg (ne_true_of_eq_false h)

theorem noteSum_no_note (h : x.held = []) (o : Osc) (k : Nat) : noteSum F x o k = (zero, k) := by
  rw [noteSum, h, List.foldl_nil]

theorem step1_out_no_note (hd : p.osc[j].drone = false) (h : x.held = []) : (step1 F x p).out[j] = zero := by
  obtain ⟨k, hk⟩ := step1_out F x p j
  rw [hk, rawOutput_not_drone F x hd, noteSum_no_note F x h]

/-! ### The outputs no route reaches (rules R232, R233, R305) -/

theorem Osc.Same.drone {a b : Osc} (h : a.Same b) : b.drone = a.drone := by rw [h]

/-- Only a drone is evaluated again, and only as a target. -/
theorem reEvaluate_out (hd : p.osc[j].drone = false) : (reEvaluate F x i p).out[j] = p.out[j] := by
  unfold reEvaluate
  split
  next hi =>
    have hij : i.val ≠ j.val := fun h => by
      obtain rfl := Fin.ext h
      exact Bool.false_ne_true (hd.symm.trans hi)
    simp [Vector.getElem_set_ne, hij]
  next => rfl

/-- The target's oscillator rewritten first, the mode kept. -/
theorem reEvaluate_set_out {o : Osc} (ho : o.drone = p.osc[i].drone) (hd : p.osc[j].drone = false) :
    (reEvaluate F x i { p with osc := p.osc.set i o }).out[j] = p.out[j] :=
  reEvaluate_out F x _ i j ((get_set_osc p i j Osc.drone fun h => h ▸ ho).trans hd)

theorem pitchTarget_out (hd : p.osc[j].drone = false) : (pitchTarget F x p i).out[j] = p.out[j] := by
  unfold pitchTarget
  split
  · exact reEvaluate_set_out F x p i j rfl hd
  · rfl

theorem ampTarget_out (hd : p.osc[j].drone = false) : (ampTarget F x p i).out[j] = p.out[j] := by
  unfold ampTarget
  split
  · exact reEvaluate_set_out F x p i j rfl hd
  · rfl

/-- Stages that change FM and AMP alone of the oscillators, and no output of a non-drone, keep its output. -/
theorem foldl_oscillators_out {g : Pass → Fin 3 → Pass} (hsame : ∀ (q : Pass) i, q.osc[j].Same (g q i).osc[j])
    (hout : ∀ (q : Pass) i, q.osc[j].drone = false → (g q i).out[j] = q.out[j]) (hd : p.osc[j].drone = false) :
    (oscillators.foldl g p).osc[j].drone = false ∧ (oscillators.foldl g p).out[j] = p.out[j] :=
  foldl_oscillators (P := fun q => q.osc[j].drone = false ∧ q.out[j] = p.out[j]) p ⟨hd, rfl⟩
    fun q i ⟨hq, ho⟩ => ⟨(hsame q i).drone.trans hq, (hout q i hq).trans ho⟩

end

theorem voices_out_not_drone (F : Fns) (s : State) (e : F64) (c : Fin 4) {j : Fin 3} (hd : s.osc[j].drone = false) :
    (voices F s e c).out[j] =
      (step1 F (ctxOf s e c) { osc := s.osc, out := #v[zero, zero, zero], draws := s.draws }).out[j] := by
  have hd1 : (step1 F (ctxOf s e c)
      { osc := s.osc, out := #v[zero, zero, zero], draws := s.draws }).osc[j].drone = false := by
    rw [step1_osc]
    exact hd
  obtain ⟨hd2, hout2⟩ := foldl_oscillators_out _ j (fun q i => pitchTarget_same F (ctxOf s e c) q i j)
    (fun q i => pitchTarget_out F (ctxOf s e c) q i j) hd1
  obtain ⟨-, hout3⟩ := foldl_oscillators_out _ j (fun q i => ampTarget_same F (ctxOf s e c) q i j)
    (fun q i => ampTarget_out F (ctxOf s e c) q i j) hd2
  exact hout3.trans hout2

/-- Settles O47: steps 2 and 3 evaluate drones alone again, and a sum over no note is its start. -/
theorem nonDroneOutputsAreTheirNoteSums : Obligations.NonDroneOutputsAreTheirNoteSums := by
  intro F s e c j hd
  have hout := voices_out_not_drone F s e c hd
  exact ⟨hout, fun hheld => hout.trans (step1_out_no_note F (ctxOf s e c) _ j hd hheld)⟩

/-! ### The targets of steps 2 and 3 (rules R232, R233) -/

section

variable (F : Fns) (x : Ctx) (p : Pass) (j : Fin 3)

theorem fmSum_eq_addRouted :
    fmSum x p j = addRouted x.route j.val (fun v => mul (mul ⟨0x3FD0000000000000#64⟩ p.osc[j].freq) v)
      [(0, p.out[0]), (1, p.out[1]), (2, p.out[2]), (3, x.fprev), (4, x.e)] := rfl

theorem ampProduct_eq_mulRouted :
    ampProduct x p j = mulRouted x.route (3 + j.val) p.osc[j].volume
      [(0, p.out[0]), (1, p.out[1]), (2, p.out[2]), (3, x.fprev), (4, x.e)] := rfl

theorem pitchTarget_inactive (h : columnActive x.route (pitchCol j) = false) : pitchTarget F x p j = p :=
  if_neg (ne_true_of_eq_false h)

theorem ampTarget_inactive (h : columnActive x.route (ampCol j) = false) : ampTarget F x p j = p :=
  if_neg (ne_true_of_eq_false h)

theorem reEvaluate_not_drone (h : p.osc[j].drone = false) : reEvaluate F x j p = p :=
  if_neg (ne_true_of_eq_false h)

theorem reEvaluate_drone (h : p.osc[j].drone = true) :
    reEvaluate F x j p =
      { p with
        out := p.out.set j (play F x.cfg.sqTie p.osc[j] p.osc[j].freq x.t x.c p.draws).1
        draws := (play F x.cfg.sqTie p.osc[j] p.osc[j].freq x.t x.c p.draws).2 } := if_pos h

variable {F x p j} {o : Osc} {t : Pass}

/-- A target that rewrites its oscillator to `o` and is evaluated again: its registers, and its output and draws
without and with drone mode. -/
theorem target_cases (hdrone : o.drone = p.osc[j].drone) (hfreq : o.freq = p.osc[j].freq)
    (ht : t = reEvaluate F x j { p with osc := p.osc.set j o }) :
    t.osc = p.osc.set j o ∧ (p.osc[j].drone = false → t.out = p.out ∧ t.draws = p.draws) ∧
      (p.osc[j].drone = true → ∀ r : F64 × Nat, r = play F x.cfg.sqTie o p.osc[j].freq x.t x.c p.draws →
        t.out = p.out.set j r.1 ∧ t.draws = r.2) := by
  have hself : (p.osc.set j o)[j] = o := Vector.getElem_set_self ..
  rw [← hdrone, ← hfreq]
  subst ht
  refine ⟨reEvaluate_osc .., fun h => ?_, fun h r hr => ?_⟩
  · rw [reEvaluate_not_drone F x _ j (by rw [hself, h])]
    exact ⟨rfl, rfl⟩
  · rw [reEvaluate_drone F x _ j (by rw [hself, h]), hself, hr]
    exact ⟨rfl, rfl⟩

end

/-- Settles O48: a target of an active column is `target_cases` of the oscillator with its FM or AMP written. -/
theorem modulationStagesAccumulateAndReEvaluate : Obligations.ModulationStagesAccumulateAndReEvaluate := by
  intro F x p j vals fm am hvals hfm ham
  rw [hvals, ← fmSum_eq_addRouted] at hfm
  rw [hvals, ← ampProduct_eq_mulRouted] at ham
  subst hfm ham
  exact ⟨fun h => target_cases rfl rfl (if_pos h), fun h => target_cases rfl rfl (if_pos h),
    pitchTarget_inactive F x p j, ampTarget_inactive F x p j⟩

/-! ### The order of the stages (rules R224, R230) -/

/-- Settles O45: step 1 by its three outputs, and steps 2 and 3 as folds over the oscillators 0, 1, 2. -/
theorem passRunsItsStagesInOrder : Obligations.PassRunsItsStagesInOrder := by
  intro F s e c x raw p hx hraw hp
  have hout (i : Fin 3) (k : Nat) : rawOutput F x s.osc[i] k = raw i k := by
    obtain ⟨hdrone, hnote⟩ := hraw i k
    cases hd : s.osc[i].drone with
    | true => rw [rawOutput_drone F x hd, hdrone hd, hx]; rfl
    | false => rw [rawOutput_not_drone F x hd, hnote hd]
  have hstep1 : step1 F x { osc := s.osc, out := #v[zero, zero, zero], draws := s.draws } = p :=
    (step1_eq F x _ (hout 0 _) (hout 1 _) (hout 2 _)).trans hp.symm
  refine ⟨?_, compose_osc .., compose_draws ..⟩
  rw [← hstep1, hx]
  rfl

end Sys2Proof.Machine
end

section
/-! PROOFS. The control commands: NOP, FRAME, STATUS_CLR and SOFT_RESET, the words each decodes from, its next state and
its refused fields (rules R260 to R262, R266, R267, R283). -/

namespace Sys2Proof.Machine

open F64 Sys2Proof.Claims

/-! ### NOP and SOFT_RESET (rules R260, R267, R302) -/

/-- A command that takes no field raises BAD_FIELD where one is not zero. -/
theorem exec_operandless_refused {i : Instr} {f : Fields} (hi : i.fieldsOk = f.none) (h : f ≠ noFields) (s : State) :
    exec i s = .next (badField s) :=
  exec_refused (hi.trans (none_eq_false h)) s

theorem exec_nop_noFields (s : State) : exec (.nop noFields) s = .next s := rfl

theorem exec_softReset_noFields (s : State) : exec (.softReset noFields) s = .next (resetRegisters s) := rfl

/-- The reset of rule R300 is that of the statements, the input kept. -/
theorem resetRegisters_eq_afterReset (s : State) : resetRegisters s = afterReset s s.input := rfl

/-- Settles O35: its fields accepted, NOP leaves the state it finds. -/
theorem nopChangesNothing : Obligations.NopChangesNothing :=
  ⟨isH_of_opcodeMap rfl, exec_nop_noFields, fun s _ h => exec_operandless_refused rfl h s⟩

/-- Settles O15: its fields accepted, SOFT_RESET is `resetRegisters`. -/
theorem softResetResetsTheRegisters : Obligations.SoftResetResetsTheRegisters := by
  refine ⟨isH_of_opcodeMap rfl, fun s => ?_, fun s _ h => exec_operandless_refused rfl h s⟩
  rw [exec_softReset_noFields, resetRegisters_eq_afterReset]

/-! ### STATUS_CLR (rule R266) -/

/-- An accepted mask is the low five bits of IMM. -/
theorem maskForm_of_le {imm : BitVec 16} (h : imm.toNat ≤ 0x1F) : maskForm imm = some (imm.setWidth 5) := if_pos h

theorem exec_statusClr {f : Fields} (s : State) (ha : f.a = 0#4) (hb : f.b = 0#4) (himm : f.imm.toNat ≤ 0x1F) :
    exec (.statusClr f) s = .next { s with status := clearFlags (f.imm.setWidth 5) s.status } :=
  immOnly_accepted s ha hb (maskForm_of_le himm)

/-- Settles O36: the mask accepted, `clearFlags` clears its bits. -/
theorem statusClrClearsTheMask : Obligations.StatusClrClearsTheMask := by
  refine ⟨isH_of_opcodeMap rfl, fun s f ha hb himm => ⟨_, exec_statusClr s ha hb himm, fun k hk => ?_⟩,
    fun s f h => exec_refused (i := .statusClr f) (immUpTo_eq_false.2 h) s⟩
  rw [clearFlags_bit _ _ hk, BitVec.getLsbD_setWidth]
  simp [hk]

/-! ### The channels of the block in order (rule R261) -/

/-- With at most four channels, those of the block are the first NCH of all. -/
theorem liveChannels_eq_take {p : Params} (h : p.nch ≤ 4) : liveChannels p = (List.finRange 4).take p.nch := by
  unfold liveChannels
  generalize p.nch = n at h
  match n with
  | 0 | 1 | 2 | 3 | 4 => rfl

theorem liveChannels_length {p : Params} (h : p.nch ≤ 4) : (liveChannels p).length = p.nch := by
  simp [liveChannels_eq_take h, h]

theorem liveChannels_getElem? {p : Params} (h : p.nch ≤ 4) {c : Fin 4} (hc : c.val < p.nch) :
    (liveChannels p)[c.val]? = some c := by
  simp [liveChannels_eq_take h, List.getElem?_take_of_lt hc]

theorem outputFrame_length {s : State} (h : s.cfg.nch ≤ 4) : (outputFrame s).length = s.cfg.nch := by
  rw [outputFrame, List.length_map, liveChannels_length h]

theorem outputFrame_getElem? {s : State} (h : s.cfg.nch ≤ 4) {c : Fin 4} (hc : c.val < s.cfg.nch) :
    (outputFrame s)[c.val]? = some ⟨s.chan[c].outPcm, s.chan[c].outNum⟩ := by
  rw [outputFrame, List.getElem?_map, liveChannels_getElem? h hc, Option.map_some]

/-! ### The passes one after the other (rule R261) -/

section

variable (e : F64) (s : State)

theorem beforePass_succ (c : Fin 4) :
    beforePass e s (c.val + 1) = channelPass openFns e (beforePass e s c.val) c := dif_pos c.isLt

theorem beforePass_eq_foldl {n : Nat} (h : n ≤ 4) :
    beforePass e s n = ((List.finRange 4).take n).foldl (channelPass openFns e) s := by
  induction n with
  | zero => rfl
  | succ n ih =>
    have htake : (List.finRange 4).take (n + 1) = (List.finRange 4).take n ++ [⟨n, h⟩] := by
      simp [List.take_add_one, Nat.lt_of_succ_le h]
    rw [beforePass_succ e s ⟨n, h⟩, ih (Nat.le_of_succ_le h), htake, List.foldl_append]
    rfl

theorem passes_eq_beforePass (h : s.cfg.nch ≤ 4) : passes openFns e s = beforePass e s s.cfg.nch := by
  rw [passes, liveChannels_eq_take h, beforePass_eq_foldl e s h]

/-- The passes of the channels after it leave a channel as its own pass left it. -/
theorem beforePass_chan {c : Fin 4} {n : Nat} (hc : c.val < n) (hn : n ≤ 4) :
    (beforePass e s n).chan[c] = (channelPass openFns e (beforePass e s c.val) c).chan[c] := by
  induction n, hc using Nat.le_induction with
  | base => rw [beforePass_succ]
  | succ n hcn ih =>
    have hne : c ≠ ⟨n, hn⟩ := Fin.ne_of_val_ne (Nat.ne_of_lt hcn)
    rw [beforePass_succ e s ⟨n, hn⟩, channelPass_chan_other _ _ _ _ hne, ih (Nat.le_of_succ_le hn)]

/-- A channel whose pass is done holds that pass's value and its conversion. -/
theorem beforePass_sample {c : Fin 4} {n : Nat} (hc : c.val < n) (hn : n ≤ 4) {y : F64}
    (hy : y = (compose openFns e (beforePass e s c.val) c).1) :
    (beforePass e s n).chan[c].outNum = y ∧ (beforePass e s n).chan[c].outPcm = pcm y := by
  rw [beforePass_chan e s hc hn, channelPass_chan_self, hy]
  exact ⟨rfl, rfl⟩

end

/-! ### FRAME (rules R146, R230, R238, R261, R262, R313) -/

/-- Settles O41: the frame is `frame_eq`, its passes are those of `beforePass`, and a channel's sample stays as its
own pass left it. -/
theorem frameRunsThePassesAndAdvancesTime : Obligations.FrameRunsThePassesAndAdvancesTime := by
  refine ⟨isH_of_opcodeMap rfl, fun s u e hn he hu => ?_, fun s _ h => exec_operandless_refused rfl h s⟩
  have hpasses : passes openFns (envAmp s.cfg.fs s.env s.N) s = u := by
    rw [← he, hu, passes_eq_beforePass e s hn]
  have hcfg : u.cfg = s.cfg := hpasses ▸ passes_cfg ..
  rw [← hcfg] at hn
  refine ⟨outputFrame u, ?_, (outputFrame_length hn).trans (by rw [hcfg]), fun c hc => ?_⟩
  · rw [exec_frame_noFields, frame_eq, hpasses]
    rfl
  · rw [← hcfg] at hc hu
    obtain ⟨hnum, hpcm⟩ := beforePass_sample e s hc hn rfl
    rw [← hu] at hnum hpcm
    exact ⟨outputFrame_getElem? hn hc, by rw [hpcm, hnum], hnum⟩

end Sys2Proof.Machine
end

section
/-! PROOFS. The errors of a refused command (rules R87, R282 to R284): one is raised, a refused field before a data
operand that is not finite, and an accepted command raises neither. -/

namespace Sys2Proof.Machine

open Sys2Proof.Claims

/-- The mask 0x06 reads the bits of BAD_FIELD and NONFINITE (rule R282). -/
theorem refusalBits_clear_iff (st : BitVec 5) :
    st &&& 0x06#5 = 0#5 ↔ st.getLsbD (errBit .badField) = false ∧ st.getLsbD (errBit .nonfinite) = false := by
  decide +revert

section

variable {i : Instr} {s t : State} (h : exec i s = .next t)

include h

/-- BAD_FIELD is raised by a command with a refused field alone. -/
theorem exec_badField_clear (hf : i.fieldsOk = true) (h0 : s.status.getLsbD (errBit .badField) = false) :
    t.status.getLsbD (errBit .badField) = false := by
  by_contra h1
  have hset := exec_status_set h h0 (by simpa using h1)
  simp [errBit, hf] at hset

/-- NONFINITE is raised by a command whose data operand is not finite alone. -/
theorem exec_nonfinite_clear (hd : i.dataOk = true) (h0 : s.status.getLsbD (errBit .nonfinite) = false) :
    t.status.getLsbD (errBit .nonfinite) = false := by
  by_contra h1
  have hset := exec_status_set h h0 (by simpa using h1)
  simp [errBit, hd] at hset

end

/-- Settles O10: `exec_refused` and `exec_nonfinite` are the two refusals in their order, and `exec_status_set` names
the only commands that set either bit. -/
theorem refusedCommandsRaiseOneErrorInOrder : Obligations.RefusedCommandsRaiseOneErrorInOrder := by
  refine ⟨fun i s hf => exec_refused hf s, fun i s hf hd => exec_nonfinite hf hd s, fun i s t hok h hs => ?_⟩
  obtain ⟨hf, hd⟩ := Bool.and_eq_true_iff.1 hok
  obtain ⟨hbad, hnon⟩ := (refusalBits_clear_iff s.status).1 hs
  exact (refusalBits_clear_iff t.status).2 ⟨exec_badField_clear h hf hbad, exec_nonfinite_clear h hd hnon⟩

end Sys2Proof.Machine
end

section
/-! PROOFS. The two resets' common values, and the hardware reset in the middle of a command (rules R300 to R302). -/

namespace Sys2Proof.Machine

open Sys2Proof.Claims

/-! ### A hardware reset after a partial command (rules R301, R302) -/

/-- The words of a cut command, then a reset: the words decode to no command, and the reset is taken in their place. -/
theorem fetch_cut_reset {ws : List Word} (h : Cut ws) (rest : List HostInput) :
    fetch (ws.map .word ++ .reset :: rest) = .hardReset rest := by
  have hlead : leadingWords (ws.map .word ++ .reset :: rest) = ws := by
    rw [leadingWords_words, leadingWords, List.append_nil]
    nofun
  have hafter : afterWords (ws.map .word ++ .reset :: rest) = .reset :: rest := by
    rw [afterWords_words, afterWords]
    nofun
  rw [fetch, hlead, decode_cut h, hafter]

theorem step_of_hardReset {s : State} {rest : List HostInput} (h : fetch s.input = .hardReset rest) :
    step s = .next (resetRegisters { s with input := rest }) := by
  rw [step, h]

/-- Settles O7: the reset is fetched past the cut command's words, and its step is `resetRegisters` on the input
after it. -/
theorem hardwareResetDiscardsAPartialCommand : Obligations.HardwareResetDiscardsAPartialCommand := by
  intro s ws rest hcut hin
  have hfetch : fetch s.input = .hardReset rest := by rw [hin, fetch_cut_reset hcut]
  rw [step_of_hardReset hfetch, resetRegisters_eq_afterReset]
  rfl

/-! ### The reset values (rule R300) -/

/-- Settles O14: the oscillators, the rows and the channels by their reset lemmas, every other register by the
reset state's definition. -/
theorem resetValues : Obligations.ResetValues := fun p =>
  ⟨osc_reset p, rfl, rfl, route_reset p, rfl, rfl, rfl, chan_reset p, rfl, rfl, rfl, rfl⟩

end Sys2Proof.Machine
end
